-- ==== Sys2Proof/Word.lean ====
section
/-! DEFINITION. The words of the Z2416: bytes, logical addresses, physical addresses. -/
namespace Sys2Proof

/-- A byte: an operand byte, a link byte, a sequence number, a bank number. -/
abbrev Byte := BitVec 8

/-- A logical address, 0..0xFFFFFF (00_scope.md section 3.3). -/
abbrev LAddr := BitVec 24

/-- A physical address within one select, 0..0x3FFFFFF (00_scope.md section 3.3). -/
abbrev PAddr := BitVec 26

end Sys2Proof
end

