-- ==== Sys2Proof/Syntax.lean ====
section
/-! DEFINITION. The commands of the Z2416: one constructor per row of spec/opcode_table.json. -/
namespace Sys2Proof

/-- The three access kinds (R1). -/
inductive AccessKind where
  | fetch | read | write
deriving DecidableEq, Repr

/-- The three access lengths (R1). -/
inductive Len where
  | one | two | four
deriving DecidableEq, Repr

/-- The length in bytes. -/
def Len.bytes : Len → Nat
  | .one => 1
  | .two => 2
  | .four => 4

/-- An access as presented at the processor port (R1): start, length, kind and, for a WRITE, its data,
operand byte 0 first. -/
structure Access where
  start : LAddr
  len : Len
  kind : AccessKind
  data : List Byte
deriving DecidableEq, Repr

/-- How a queue entry leaves the queue (R128, R129). -/
inductive RemovalCause where
  | completed | timedOut
deriving DecidableEq, Repr

/-- The strap pins as levels (R39, R158, R162): five unit-address straps, two rate straps, one boot-width
strap; true is high. -/
structure StrapLevels where
  unit : BitVec 5
  rate1 : Bool
  rate2 : Bool
  bootWidth : Bool
deriving DecidableEq, Repr

/-- The commands. Each names its row of spec/opcode_table.json. -/
inductive Instr where
  /-- ACCESS_ARRIVAL (R5): the processor raises its request with this access. -/
  | accessArrival (a : Access)
  /-- SETUP_END (R104). -/
  | setupEnd
  /-- READY_WAIT (R106). -/
  | readyWait
  /-- BEAT_COMPLETE (R108): the bytes standing on data lanes 0 and 1 in the period the strobe ends. -/
  | beatComplete (lane0 lane1 : Byte)
  /-- BEAT_TIMEOUT (R110). -/
  | beatTimeout
  /-- RECOVERY_END (R103). -/
  | recoveryEnd
  /-- SPACE_ADMISSION (R126): the removal at which a held posted write is admitted. -/
  | spaceAdmission (cause : RemovalCause)
  /-- MOVE_TO_GRANT (R11): the removal at which a held access becomes eligible. -/
  | moveToGrant (cause : RemovalCause)
  /-- DRAIN_COMPLETE (R138): the removal of the last marked entry. -/
  | drainComplete (cause : RemovalCause)
  /-- RESET (R16): RESET is asserted. -/
  | reset
  /-- RESET_RELEASE (R39): the strap levels, the link input level and the access whose request is raised. -/
  | resetRelease (straps : StrapLevels) (linkHigh : Bool) (request : Option Access)
  /-- ADDRESS_FRAME (R163) with its data value. -/
  | addressFrame (value : Byte)
  /-- DATA_FRAME (R165, R166) with its data byte. -/
  | dataFrame (data : Byte)
  /-- BAD_LENGTH (R166): a length frame above 60. -/
  | badLength (n : Byte)
  /-- BAD_CHECK (R167): a check frame that is not accepted. -/
  | badCheck (check : Byte)
  /-- BREAK (R173). -/
  | linkBreak
  /-- FRAMING_ERROR (R161): a frame with a low stop bit that is no break; its mark and data bits. -/
  | framingError (mark : Bool) (data : Byte)
  /-- GAP_TIMEOUT (R168). -/
  | gapTimeout
  /-- TURNAROUND_END (R170). -/
  | turnaroundEnd
  /-- RESPONSE_FRAME_END (R171). -/
  | responseFrameEnd
  /-- IDENTIFY (R179). This and the next 21 are each the taking of the accepted check frame of the command
  in the command buffer (R167, R169); the payload stands in the buffer. -/
  | identify
  /-- READ_WINDOW (R180). -/
  | readWindow
  /-- WRITE_WINDOW (R181). -/
  | writeWindow
  /-- READ_PROFILE (R180). -/
  | readProfile
  /-- WRITE_PROFILE (R182). -/
  | writeProfile
  /-- READ_TRIGGER (R180). -/
  | readTrigger
  /-- WRITE_TRIGGER (R182). -/
  | writeTrigger
  /-- READ_GLOBALS (R180). -/
  | readGlobals
  /-- WRITE_GLOBALS (R182). -/
  | writeGlobals
  /-- COPY_LIVE_TO_STAGED (R44). -/
  | copyLiveToStaged
  /-- APPLY_TABLE (R51). -/
  | applyTable
  /-- READ_BANK (R73). -/
  | readBank
  /-- SET_BANK in FOLLOW mode (R74). -/
  | setBankFollow
  /-- SET_BANK in NOW mode (R75). -/
  | setBankNow
  /-- CANCEL_PENDING (R76). -/
  | cancelPending
  /-- READ_FAULTS (R149). -/
  | readFaults
  /-- REMOVE_FAULTS (R150). -/
  | removeFaults
  /-- SET_ALERT (R153). -/
  | setAlert
  /-- READ_QUEUE (R136). -/
  | readQueue
  /-- DRAIN (R137). -/
  | drain
  /-- READ_LINK_STATUS (R194). -/
  | readLinkStatus
  /-- BAD_OPCODE (R201): a complete command whose opcode is no command's. -/
  | badOpcode
  /-- FALLING_EDGE (R159). -/
  | fallingEdge
  /-- FALSE_START (R160). -/
  | falseStart
  /-- LINK_INPUT_HIGH (R159). -/
  | linkInputHigh
deriving DecidableEq, Repr

end Sys2Proof
end

