-- ==== Sys2Proof/Decode.lean ====
section
/-! DEFINITION. The command a word spells by the bits of spec/opcode_table.json. -/
namespace Sys2Proof

/-- No row of spec/opcode_table.json gives bits (every row's "fields" is empty and none has "fixed"), so no
word spells a command. The link's own byte encodings (R195 to R202) are read by the service link. -/
def decodeTableWord (_nbits _w : Nat) : Option Instr :=
  none

end Sys2Proof
end

