-- ==== Sys2Proof/Machine/Types.lean ====
section
/-! DEFINITION. The data the blocks of the Z2416 hold: table sets, bank states, transaction records, queue,
memory port, fault log, service link. -/
namespace Sys2Proof.Machine

/-- The data width of a window's memory device (R19). -/
inductive Width where
  | w8 | w16
deriving DecidableEq, Repr

/-- R19: PLAIN maps one physical range; BANKED shows one bank of a region. -/
inductive WindowKind where
  | plain | banked
deriving DecidableEq, Repr

/-- The order attribute (R30). -/
inductive Order where
  | relaxed | ordered
deriving DecidableEq, Repr

/-- The commit policies (R19, section 4.5). -/
inductive CommitPolicy where
  | atOnce | onExit | atLanding
deriving DecidableEq, Repr

/-- The rights of a window: any subset of READ, WRITE, FETCH (R19). -/
structure Rights where
  read : Bool
  write : Bool
  fetch : Bool
deriving DecidableEq, Repr

/-- A window entry (R19). Fields absent for its kind and policy are stored as zero (R20): bank count 0,
initial bank 0, policy atOnce (code 0), landing offset 0. For a BANKED window physBase is the bank base. -/
structure WindowEntry where
  valid : Bool
  logicalBase : LAddr
  sizeExp : Nat
  kind : WindowKind
  select : Fin 8
  physBase : PAddr
  width : Width
  profile : Fin 8
  rights : Rights
  order : Order
  bankCount : Nat
  initialBank : Byte
  policy : CommitPolicy
  landing : LAddr
deriving DecidableEq, Repr

/-- The ready modes of a profile (R35). -/
inductive ReadyMode where
  | fixed | ready
deriving DecidableEq, Repr

/-- A timing profile (R35). -/
structure Profile where
  setup : Nat
  strobe : Nat
  mode : ReadyMode
  limit : Nat
  recovery : Nat
deriving DecidableEq, Repr

/-- A trigger entry (R37). -/
structure Trigger where
  enabled : Bool
  addr : LAddr
  target : Fin 16
deriving DecidableEq, Repr

/-- The miss policies (R34). -/
inductive MissPolicy where
  | error | fill
deriving DecidableEq, Repr

/-- The globals (R34). -/
structure Globals where
  missPolicy : MissPolicy
  fillByte : Byte
deriving DecidableEq, Repr

/-- A table set (R17). -/
structure TableSet where
  windows : Vector WindowEntry 16
  profiles : Vector Profile 8
  triggers : Vector Trigger 4
  globals : Globals
deriving DecidableEq, Repr

/-- The bank state of a banked window (R56); no pending bank is none. -/
structure BankState where
  active : Byte
  pending : Option Byte
deriving DecidableEq, Repr

/-- The bank states, one place per window; none where the window has no bank state (R56). -/
abbrev Banks := Vector (Option BankState) 16

/-- The lanes a beat uses, each with the operand position it carries (R88). -/
inductive BeatLanes where
  | lane0 (pos : Nat)
  | lane1 (pos : Nat)
  | both (pos0 pos1 : Nat)
deriving DecidableEq, Repr

/-- A beat of a beat list (R88); its byte count is that of its lanes. -/
structure Beat where
  addr : PAddr
  lanes : BeatLanes
deriving DecidableEq, Repr

/-- Where a transaction comes from: the port, or the queue with its sequence number (R83, R84). -/
inductive Origin where
  | port
  | queue (seq : Byte)
deriving DecidableEq, Repr

/-- A transaction record (R83). Beats planned is the length of the beat list. The write data of a READ or
FETCH is the empty list. -/
structure Txn where
  kind : AccessKind
  origin : Origin
  window : Fin 16
  logicalStart : LAddr
  select : Fin 8
  physStart : PAddr
  len : Len
  width : Width
  timing : Profile
  order : Order
  data : List Byte
  beats : List Beat
  beatsDone : Nat
deriving DecidableEq, Repr

/-- The wait conditions of a HELD access (R4). -/
inductive Wait where
  | space | overlap | empty | grant
deriving DecidableEq, Repr

/-- PP's state and access record (R4). In ACTIVE the collected operand has one position per byte of a READ
or FETCH, filled or not (R95), and none for a WRITE. -/
inductive PortState where
  | idle
  | held (access : Access) (txn : Txn) (wait : Wait)
  | active (access : Access) (txn : Txn) (collected : List (Option Byte))
deriving DecidableEq, Repr

/-- The two answers of PP with the four byte lanes they drive (R2, R3). -/
inductive PortAnswer where
  | done (lanes : Vector Byte 4)
  | error (lanes : Vector Byte 4)
deriving DecidableEq, Repr

/-- The service states of a queue entry (R121). -/
inductive ServiceState where
  | waiting | inService
deriving DecidableEq, Repr

/-- A queue entry (R121). -/
structure QueueEntry where
  seq : Byte
  service : ServiceState
  txn : Txn
deriving DecidableEq, Repr

/-- The drain marker (R137). -/
structure DrainMarker where
  first : Byte
  last : Byte
  marked : Nat
  completed : Nat
  timedOut : Nat
deriving DecidableEq, Repr

/-- The write queue (R122 to R124, R137); entries oldest first. -/
structure WriteQueue where
  entries : List QueueEntry
  nextSeq : Byte
  highWater : Nat
  marker : Option DrainMarker
deriving DecidableEq, Repr

/-- The phases of the memory port (R102). -/
inductive Phase where
  | idle | setup | strobe | readyWait | recovery
deriving DecidableEq, Repr

/-- How the beat in progress ended (R102). -/
inductive BeatOutcome where
  | none | complete | timeout
deriving DecidableEq, Repr

/-- The outputs of the memory port (R100). sel names the one active select line, if any (R101); data holds
the two lane bytes while the part drives the data lines. -/
structure MemPins where
  addr : PAddr
  sel : Option (Fin 8)
  readStrobe : Bool
  writeStrobe : Bool
  le0 : Bool
  le1 : Bool
  data : Option (Byte × Byte)
deriving DecidableEq, Repr

/-- The memory port (R102) with its outputs. -/
structure MemPort where
  phase : Phase
  current : Option Origin
  beatIndex : Nat
  phaseCount : Nat
  strobeCount : Nat
  outcome : BeatOutcome
  timing : Profile
  pins : MemPins
deriving DecidableEq, Repr

/-- What a fault is about: the kind, and the fields of R143 that the kind has present. -/
inductive FaultCause where
  | miss
  | straddle (window : Option (Fin 16))
  | rights (window : Fin 16)
  | timeout (fromQueue : Bool) (window : Fin 16) (select : Fin 8) (phys : PAddr) (planned done : Nat)
  | bankRange (window : Fin 16) (candidate : Byte) (trigger : Fin 4)
deriving DecidableEq, Repr

/-- A fault record (R143). The origin is QUEUE exactly for a timeout with fromQueue, else PORT. -/
structure FaultRecord where
  seq : Byte
  cause : FaultCause
  access : AccessKind
  len : Len
  start : LAddr
deriving DecidableEq, Repr

/-- The fault log (R145, R146, R153) with its ALERT output (R154). -/
structure FaultLog where
  records : List FaultRecord
  overflow : Bool
  nextSeq : Byte
  alertEnable : Bool
  alert : Bool
deriving DecidableEq, Repr

/-- The line states of the frame receiver (R159). -/
inductive LineState where
  | hunt | sampling | waitHigh
deriving DecidableEq, Repr

/-- How a unit is selected (R162). -/
inductive Selection where
  | addressed | broadcast
deriving DecidableEq, Repr

/-- The receiver states with their selection (R162). -/
inductive Receiver where
  | unselected
  | selected (by_ : Selection)
  | executing (by_ : Selection)
  | responding
deriving DecidableEq, Repr

/-- The command buffer once an opcode is in it (R162, R166); length is none until the length frame. -/
structure CommandBuffer where
  opcode : Byte
  length : Option Byte
  payload : List Byte
  sum : Byte
deriving DecidableEq, Repr

/-- The status codes (R177, R201). -/
inductive Status where
  | ok | badCheck | badOpcode | badLength | badIndex | badValue | invalidTable | notBanked
deriving DecidableEq, Repr

/-- The response buffer (R162, R170); its length is that of the payload. -/
structure Response where
  status : Status
  payload : List Byte
  check : Byte
deriving DecidableEq, Repr

/-- Where the response stands (R163, R170, R171): nothing to send, in turnaround, or in frame k (0 is the
status frame) at bit b, periods part-clock periods into the bit. -/
inductive Transmitter where
  | off
  | turnaround
  | sending (frame bit periods : Nat)
deriving DecidableEq, Repr

/-- The link status counters (R174). -/
structure LinkCounters where
  framing : Byte
  badChecks : Byte
  gaps : Byte
  ignored : Byte
  breaks : Byte
deriving DecidableEq, Repr

/-- The service link (R159, R162, R163). gapTimer is none when stopped, else the part-clock periods since the
last frame taken (R168). sinceCommand counts from the frame that completed or ended the command (R170). -/
structure ServiceLink where
  line : LineState
  linkIn : Bool
  rxTime : Nat
  samples : List Bool
  receiver : Receiver
  command : Option CommandBuffer
  response : Option Response
  transmitter : Transmitter
  heldOver : Option Byte
  gapTimer : Option Nat
  sinceCommand : Nat
  counters : LinkCounters
deriving DecidableEq, Repr

/-- The straps as sampled at the release of RESET (R39, R158, R162). -/
structure Straps where
  unitAddress : BitVec 5
  rateValue : Nat
  bootWidth : Width
deriving DecidableEq, Repr

/-- What decoding gives an access (R23): the hit window, or the refusal with its hit window if any (R29). -/
inductive DecodeResult where
  | accepted (window : Fin 16)
  | miss
  | straddle (window : Option (Fin 16))
  | rights (window : Fin 16)
deriving DecidableEq, Repr

/-- The reasons of a failed validation, in ascending reason code (R45). -/
inductive TableReason where
  | logicalAlign | physicalAlign | physicalTop | initialBank | landingRange
  | triggerTarget | triggerSelf | triggerDuplicate
deriving DecidableEq, Repr

/-- The item a failed validation names (R45). -/
inductive TableItem where
  | window (index : Fin 16)
  | trigger (index : Fin 4)
deriving DecidableEq, Repr

/-- What a frame taken from the link input is (R161). -/
inductive FrameKind where
  | address (value : Byte)
  | data (byte : Byte)
  | linkBreak
  | framingError
deriving DecidableEq, Repr

end Sys2Proof.Machine
end

