-- ==== Sys2Proof/Machine/Boot.lean ====
section
/-! DEFINITION. What the blocks hold at reset: the boot set (R38), sampled straps (R39, R158), idle blocks. -/
namespace Sys2Proof.Machine

/-- Window 0 of the boot set (R38); its width comes from the boot-width strap (R39). -/
def bootWindow0 (width : Width) : WindowEntry :=
  { valid := true, logicalBase := 0, sizeExp := 24, kind := .plain, select := 0, physBase := 0,
    width := width, profile := 0, rights := { read := true, write := true, fetch := true },
    order := .ordered, bankCount := 0, initialBank := 0, policy := .atOnce, landing := 0 }

/-- Windows 1..15 of the boot set (R38). -/
def bootWindow : WindowEntry :=
  { valid := false, logicalBase := 0, sizeExp := 8, kind := .plain, select := 0, physBase := 0,
    width := .w8, profile := 0, rights := { read := false, write := false, fetch := false },
    order := .relaxed, bankCount := 0, initialBank := 0, policy := .atOnce, landing := 0 }

/-- The profiles of the boot set (R38). -/
def bootProfile : Profile :=
  { setup := 3, strobe := 16, mode := .fixed, limit := 1024, recovery := 7 }

/-- The triggers of the boot set (R38). -/
def bootTrigger : Trigger :=
  { enabled := false, addr := 0, target := 0 }

/-- The globals of the boot set (R34, R38). -/
def bootGlobals : Globals :=
  { missPolicy := .error, fillByte := 0xFF }

/-- The boot set (R38). -/
def bootSet (width : Width) : TableSet :=
  { windows := (Vector.replicate 16 bootWindow).set 0 (bootWindow0 width)
    profiles := Vector.replicate 8 bootProfile
    triggers := Vector.replicate 4 bootTrigger
    globals := bootGlobals }

/-- No window has bank state (R57). -/
def noBanks : Banks :=
  Vector.replicate 16 none

/-- R158: the first rate strap adds 1 when high and the second adds 2. -/
def rateOf (rate1 rate2 : Bool) : Nat :=
  rate1.toNat + 2 * rate2.toNat

/-- R39: a low boot-width strap gives 8, a high one 16. -/
def bootWidthOf (high : Bool) : Width :=
  if high then .w16 else .w8

/-- The straps sampled at the release of RESET (R39, R158, R175). -/
def sampleStraps (p : StrapLevels) : Straps :=
  { unitAddress := p.unit, rateValue := rateOf p.rate1 p.rate2, bootWidth := bootWidthOf p.bootWidth }

/-- Every strap low: the levels State.reset takes (log 7). -/
def lowStraps : StrapLevels :=
  { unit := 0, rate1 := false, rate2 := false, bootWidth := false }

/-- The write queue after reset (R141). -/
def resetQueue : WriteQueue :=
  { entries := [], nextSeq := 0, highWater := 0, marker := none }

/-- The memory-port outputs after reset: all inactive, data released, address lines 0 (R120). -/
def resetPins : MemPins :=
  { addr := 0, sel := none, readStrobe := false, writeStrobe := false, le0 := false, le1 := false,
    data := none }

/-- The memory port after reset (R120); the items without meaning in IDLE are log 9's. -/
def resetPort : MemPort :=
  { phase := .idle, current := none, beatIndex := 0, phaseCount := 1, strobeCount := 1, outcome := .none,
    timing := bootProfile, pins := resetPins }

/-- The fault log after reset (R156). -/
def resetLog : FaultLog :=
  { records := [], overflow := false, nextSeq := 0, alertEnable := true, alert := false }

/-- The link counters after reset (R175). -/
def resetCounters : LinkCounters :=
  { framing := 0, badChecks := 0, gaps := 0, ignored := 0, breaks := 0 }

/-- The service link at the release of RESET: HUNT if the link input is high, else WAIT_HIGH (R175). -/
def resetLink (linkHigh : Bool) : ServiceLink :=
  { line := if linkHigh then .hunt else .waitHigh, linkIn := linkHigh, rxTime := 0, samples := [],
    receiver := .unselected, command := none, response := none, transmitter := .off, heldOver := none,
    gapTimer := none, sinceCommand := 0, counters := resetCounters }

end Sys2Proof.Machine
end

