-- ==== Sys2Proof/Machine/State.lean ====
section
/-! DEFINITION. The state of the Z2416 and its state after reset; why a command can stop. -/
namespace Sys2Proof.Machine

/-- Stuck states (log 16). Neither is reached from State.reset; the safety statement of the package says so. -/
inductive Fault where
  /-- Raised by a memory-port event, and by the part-clock period, when the port is in a beat and no block
  holds the record or the beat it performs (R102, R103 say one always does). Safe: the model stops. -/
  | lostRecord
  /-- Raised by an arrival accepted in a BANKED window that holds no bank state (R56 says it always does).
  Safe: the model stops. -/
  | noBankState
deriving DecidableEq, Repr

/-- Why a command is refused: it is not an event of the part in this state (log 2). Each is safe: nothing
follows of a refused command. -/
inductive Refusal where
  /-- Raised by no meaning: an arm of exec whose row has no meaning yet. -/
  | notModelled (mnemonic : String)
  /-- Raised by ACCESS_ARRIVAL, RESET_RELEASE, BAD_LENGTH, FRAMING_ERROR: the operands are no such event
  (R1, R161, R166). -/
  | illFormed
  /-- Raised by SETUP_END, READY_WAIT, BEAT_COMPLETE, BEAT_TIMEOUT, RECOVERY_END: the memory port is not in a
  phase in which the event happens (R104 to R112). -/
  | otherPhase
  /-- Raised by READY_WAIT and BEAT_TIMEOUT: the beat's ready mode or limit does not allow it (R105, R106, R110). -/
  | otherTiming
  /-- Raised by SPACE_ADMISSION, MOVE_TO_GRANT, DRAIN_COMPLETE: the report does not remove the queue head
  (R128, R129). -/
  | noRemoval
  /-- Raised by SPACE_ADMISSION: PP holds no write for SPACE (R126). -/
  | noHeldWrite
  /-- Raised by MOVE_TO_GRANT: the removal makes no held access eligible (R132, R133). -/
  | noneEligible
  /-- Raised by DRAIN_COMPLETE: the removed entry is not the last marked one (R138). -/
  | notLastMarked
  /-- Raised by RESET_RELEASE: RESET is not held. -/
  | resetNotHeld
  /-- Raised by the events inside the part while RESET is held (R16, R120, R175): none happens. -/
  | resetIsHeld
  /-- Raised by the frame events: no falling edge has begun a frame (R159). -/
  | noFrameBegun
  /-- Raised by FALSE_START: the start bit has been decided 0 (R160). -/
  | frameCommitted
  /-- Raised by FALLING_EDGE in WAIT_HIGH: the input has not been seen high (R159). -/
  | inputStillLow
  /-- Raised by BAD_LENGTH, BAD_CHECK and the service commands: the frame is not in that place of that
  command (R166, R167, R169). -/
  | otherFrame
  /-- Raised by GAP_TIMEOUT: no gap timer runs, or a frame has begun (R168). -/
  | noGapTimer
  /-- Raised by TURNAROUND_END and RESPONSE_FRAME_END: no such part of a response is under way (R170, R171). -/
  | noResponse
deriving DecidableEq, Repr

/-- The state of the part, block by block (00_scope.md section 2.1), with the queue of waiting commands. -/
structure State where
  /-- commands waiting, first in first out -/
  pending : List Instr
  /-- RESET is held -/
  resetHeld : Bool
  /-- part-clock periods counted; the model's own (log 5) -/
  period : Nat
  /-- the straps as sampled at the last release of RESET -/
  straps : Straps
  /-- WD: the live set (R18) -/
  live : TableSet
  /-- WD: the staged set (R40) -/
  staged : TableSet
  /-- BC: the bank states (R56) -/
  banks : Banks
  /-- PP: port state and access record (R4) -/
  pp : PortState
  /-- PP's last answer, none while the last arrival is unanswered (log 10) -/
  answer : Option PortAnswer
  /-- WQ (R122) -/
  wq : WriteQueue
  /-- MP (R102) -/
  mp : MemPort
  /-- FL (R146) -/
  fl : FaultLog
  /-- SL (R162) -/
  sl : ServiceLink
deriving DecidableEq, Repr

/-- The part at the release of RESET with the given straps and link input level, before a raised request is
taken (R16, R38, R57, R120, R141, R156, R175). -/
def State.released (straps : Straps) (linkHigh : Bool) : State :=
  { pending := [], resetHeld := false, period := 0, straps := straps,
    live := bootSet straps.bootWidth, staged := bootSet straps.bootWidth, banks := noBanks,
    pp := .idle, answer := none, wq := resetQueue, mp := resetPort, fl := resetLog,
    sl := resetLink linkHigh }

/-- The machine right after reset: released with every strap low and the link input high (log 7). -/
def State.reset : State :=
  State.released (sampleStraps lowStraps) true

end Sys2Proof.Machine
end

