-- ==== Sys2Proof/Machine/Ops.lean ====
section
/-! DEFINITION. The named updates of State, and the chaining of outcomes. -/
namespace Sys2Proof.Machine

/-- The outcomes of a step of this machine. -/
abbrev Result := Host.Outcome State Fault Refusal

/-- Go on from a next state; a fault or a refusal stays. -/
def andThen (r : Result) (f : State → Result) : Result :=
  match r with
  | .next s => f s
  | .fault e => .fault e
  | .refused e => .refused e

def State.setPending (s : State) (x : List Instr) : State := { s with pending := x }
def State.setResetHeld (s : State) (x : Bool) : State := { s with resetHeld := x }
def State.setPeriod (s : State) (x : Nat) : State := { s with period := x }
def State.setLive (s : State) (x : TableSet) : State := { s with live := x }
def State.setStaged (s : State) (x : TableSet) : State := { s with staged := x }
def State.setBanks (s : State) (x : Banks) : State := { s with banks := x }
def State.setPp (s : State) (x : PortState) : State := { s with pp := x }
def State.setAnswer (s : State) (x : Option PortAnswer) : State := { s with answer := x }
def State.setWq (s : State) (x : WriteQueue) : State := { s with wq := x }
def State.setMp (s : State) (x : MemPort) : State := { s with mp := x }
def State.setFl (s : State) (x : FaultLog) : State := { s with fl := x }
def State.setSl (s : State) (x : ServiceLink) : State := { s with sl := x }

/-- The indices of the windows, in ascending order. -/
def windowIndices : List (Fin 16) :=
  [0, 1, 2, 3, 4, 5, 6, 7, 8, 9, 10, 11, 12, 13, 14, 15]

/-- The indices of the triggers, in ascending order. -/
def triggerIndices : List (Fin 4) :=
  [0, 1, 2, 3]

/-- One bank place per window from a function of the window. -/
def banksOf (f : Fin 16 → Option BankState) : Banks :=
  ⟨(windowIndices.map f).toArray, rfl⟩

end Sys2Proof.Machine
end

