-- ==== Sys2Proof/WellFormed.lean ====
section
/-! DEFINITION. Which terms of Instr are commands at all. -/
namespace Sys2Proof

/-- R1: a WRITE carries exactly length bytes, a READ or FETCH none. -/
def Access.wellFormed (a : Access) : Bool :=
  match a.kind with
  | .write => a.data.length == a.len.bytes
  | .read => a.data.isEmpty
  | .fetch => a.data.isEmpty

/-- R161: a frame with a low stop bit, mark 0 and data 0 is a break and not a framing error. -/
def isBreakPattern (mark : Bool) (data : Byte) : Bool :=
  !mark && data == 0

/-- The longest payload a length frame may announce (R166). -/
def maxPayload : Nat := 60

/-- The checks on operands: the access of R1, the length above 60 of R166, and the framing error of R161. -/
def Instr.wellFormed (i : Instr) : Bool :=
  match i with
  | .accessArrival a => a.wellFormed
  | .resetRelease _ _ (some a) => a.wellFormed
  | .badLength n => decide (maxPayload < n.toNat)
  | .framingError mark data => !isBreakPattern mark data
  | .resetRelease _ _ none
  | .setupEnd | .readyWait | .beatComplete _ _ | .beatTimeout | .recoveryEnd
  | .spaceAdmission _ | .moveToGrant _ | .drainComplete _ | .reset
  | .addressFrame _ | .dataFrame _ | .badCheck _ | .linkBreak | .gapTimeout
  | .turnaroundEnd | .responseFrameEnd
  | .identify | .readWindow | .writeWindow | .readProfile | .writeProfile
  | .readTrigger | .writeTrigger | .readGlobals | .writeGlobals
  | .copyLiveToStaged | .applyTable | .readBank | .setBankFollow | .setBankNow
  | .cancelPending | .readFaults | .removeFaults | .setAlert | .readQueue
  | .drain | .readLinkStatus | .badOpcode
  | .fallingEdge | .falseStart | .linkInputHigh => true

end Sys2Proof
end

