-- ==== Sys2Proof/Machine/Operands.lean ====
section
/-! DEFINITION. The formats of section 10.8: little-endian values, table entries, fault records, codes, link
frames; and the operand lanes of the processor port. -/
namespace Sys2Proof.Machine

/-- A value as k bytes, least significant first (section 10.8). -/
def leBytes : Nat → Nat → List Byte
  | 0, _ => []
  | k + 1, v => BitVec.ofNat 8 v :: leBytes k (v / 256)

/-- The value of bytes, least significant first (section 10.8). -/
def leValue : List Byte → Nat
  | [] => 0
  | b :: bs => b.toNat + 256 * leValue bs

/-- A bit at place k of a byte. -/
def bitAt (b : Bool) (k : Nat) : Nat :=
  if b then 2 ^ k else 0

/-- A yes/no byte (section 10.8). -/
def yesNo (b : Bool) : Byte :=
  if b then 1 else 0

/-- The value of a yes/no byte; none for a byte that is neither (R197). -/
def readYesNo (b : Byte) : Option Bool :=
  match b.toNat with
  | 0 => some false
  | 1 => some true
  | _ => none

/-- The width in bits, as IDENTIFY reports it (R197). -/
def Width.bits : Width → Nat
  | .w8 => 8
  | .w16 => 16

/-- Commit policy codes (R198). -/
def CommitPolicy.code : CommitPolicy → Byte
  | .atOnce => 0
  | .onExit => 1
  | .atLanding => 2

/-- The commit policy of a code; none above 2 (R181, R198). -/
def policyOf (b : Byte) : Option CommitPolicy :=
  match b.toNat with
  | 0 => some .atOnce
  | 1 => some .onExit
  | 2 => some .atLanding
  | _ => none

/-- Access kind codes (R202). -/
def accessCode : AccessKind → Nat
  | .fetch => 0
  | .read => 1
  | .write => 2

/-- Status codes (R201). -/
def Status.code : Status → Byte
  | .ok => 0
  | .badCheck => 1
  | .badOpcode => 2
  | .badLength => 3
  | .badIndex => 4
  | .badValue => 5
  | .invalidTable => 6
  | .notBanked => 7

/-- Reason codes (R45, R202). -/
def TableReason.code : TableReason → Byte
  | .logicalAlign => 1
  | .physicalAlign => 2
  | .physicalTop => 3
  | .initialBank => 4
  | .landingRange => 5
  | .triggerTarget => 6
  | .triggerSelf => 7
  | .triggerDuplicate => 8

/-- Item kind code and index (R202). -/
def TableItem.bytes : TableItem → List Byte
  | .window i => [0, BitVec.ofNat 8 i.val]
  | .trigger i => [1, BitVec.ofNat 8 i.val]

/-! ### Window entries (R198) -/

/-- Byte 0 of a window entry (R198). -/
def WindowEntry.attributes (w : WindowEntry) : Nat :=
  bitAt w.valid 0 + bitAt (w.kind == .banked) 1 + bitAt (w.order == .ordered) 2 + bitAt (w.width == .w16) 3
    + bitAt w.rights.read 4 + bitAt w.rights.write 5 + bitAt w.rights.fetch 6

/-- Byte 10 of a window entry: bank count − 1 of a BANKED entry, 0 of a PLAIN one (R198). -/
def WindowEntry.countByte (w : WindowEntry) : Byte :=
  match w.kind with
  | .plain => 0
  | .banked => BitVec.ofNat 8 (w.bankCount - 1)

/-- A window entry as its 16 bytes (R198). -/
def encodeWindow (w : WindowEntry) : List Byte :=
  [BitVec.ofNat 8 w.attributes, BitVec.ofNat 8 w.sizeExp, BitVec.ofNat 8 (w.select.val + 16 * w.profile.val)]
    ++ leBytes 3 w.logicalBase.toNat ++ leBytes 4 w.physBase.toNat
    ++ [w.countByte, w.initialBank, w.policy.code] ++ leBytes 3 w.landing.toNat

/-- Replace the fields absent for the entry's kind and policy by zero (R20, R42). -/
def WindowEntry.clearAbsent (w : WindowEntry) : WindowEntry :=
  match w.kind, w.policy with
  | .plain, _ => { w with bankCount := 0, initialBank := 0, policy := .atOnce, landing := 0 }
  | .banked, .atLanding => w
  | .banked, .atOnce => { w with landing := 0 }
  | .banked, .onExit => { w with landing := 0 }

/-- The commit policy an entry is stored with: that of its code for BANKED, code 0 for PLAIN whatever is
offered; none when a BANKED entry offers a code above 2 (R42, R181). -/
def offeredPolicy (kind : WindowKind) (code : Byte) : Option CommitPolicy :=
  match kind with
  | .plain => some .atOnce
  | .banked => policyOf code

/-- A window entry from its 16 bytes; none when a field is out of range (R42, R181) and WRITE_WINDOW answers
BAD_VALUE. Absent fields are not judged and become zero. -/
def decodeWindow (bytes : List Byte) : Option WindowEntry :=
  match bytes with
  | [a, e, sp, l0, l1, l2, p0, p1, p2, p3, count, initial, policy, o0, o1, o2] =>
    let kind := if a.getLsbD 1 then WindowKind.banked else WindowKind.plain
    let phys := leValue [p0, p1, p2, p3]
    if 8 ≤ e.toNat ∧ e.toNat ≤ 24 ∧ sp.toNat % 16 ≤ 7 ∧ sp.toNat / 16 ≤ 7 ∧ phys ≤ 0x3FFFFFF
        ∧ a.getLsbD 7 = false then
      match offeredPolicy kind policy with
      | none => none
      | some pol => some (WindowEntry.clearAbsent
          { valid := a.getLsbD 0
            logicalBase := BitVec.ofNat 24 (leValue [l0, l1, l2])
            sizeExp := e.toNat
            kind := kind
            select := Fin.ofNat 8 (sp.toNat % 16)
            physBase := BitVec.ofNat 26 phys
            width := if a.getLsbD 3 then .w16 else .w8
            profile := Fin.ofNat 8 (sp.toNat / 16)
            rights := { read := a.getLsbD 4, write := a.getLsbD 5, fetch := a.getLsbD 6 }
            order := if a.getLsbD 2 then .ordered else .relaxed
            bankCount := count.toNat + 1
            initialBank := initial
            policy := pol
            landing := BitVec.ofNat 24 (leValue [o0, o1, o2]) })
    else none
  | _ => none

/-! ### Profiles, triggers, globals (R199) -/

/-- Ready mode codes (R199). -/
def ReadyMode.code : ReadyMode → Byte
  | .fixed => 0
  | .ready => 1

/-- The ready mode of a code (R43, R199). -/
def readyModeOf (b : Byte) : Option ReadyMode :=
  match b.toNat with
  | 0 => some .fixed
  | 1 => some .ready
  | _ => none

/-- A profile as its 6 bytes (R199). -/
def encodeProfile (p : Profile) : List Byte :=
  [BitVec.ofNat 8 p.setup, BitVec.ofNat 8 p.strobe, p.mode.code] ++ leBytes 2 p.limit
    ++ [BitVec.ofNat 8 p.recovery]

/-- The field ranges of a profile (R35). -/
def Profile.inRange (p : Profile) : Bool :=
  decide (p.setup ≤ 3 ∧ 1 ≤ p.strobe ∧ p.strobe ≤ 16 ∧ 1 ≤ p.limit ∧ p.limit ≤ 1024 ∧ p.strobe ≤ p.limit
    ∧ p.recovery ≤ 7)

/-- A profile from its 6 bytes; none when a field is out of range (R43). -/
def decodeProfile (bytes : List Byte) : Option Profile :=
  match bytes with
  | [setup, strobe, mode, l0, l1, recovery] =>
    match readyModeOf mode with
    | none => none
    | some m =>
      let p : Profile := { setup := setup.toNat, strobe := strobe.toNat, mode := m,
                           limit := leValue [l0, l1], recovery := recovery.toNat }
      if p.inRange then some p else none
  | _ => none

/-- A trigger as its 5 bytes (R199). -/
def encodeTrigger (t : Trigger) : List Byte :=
  [yesNo t.enabled] ++ leBytes 3 t.addr.toNat ++ [BitVec.ofNat 8 t.target.val]

/-- A trigger from its 5 bytes; none when a field is out of range (R43). -/
def decodeTrigger (bytes : List Byte) : Option Trigger :=
  match bytes with
  | [enabled, a0, a1, a2, target] =>
    match readYesNo enabled with
    | none => none
    | some e =>
      if target.toNat ≤ 15 then
        some { enabled := e, addr := BitVec.ofNat 24 (leValue [a0, a1, a2]), target := Fin.ofNat 16 target.toNat }
      else none
  | _ => none

/-- Miss policy codes (R199). -/
def MissPolicy.code : MissPolicy → Byte
  | .error => 0
  | .fill => 1

/-- The miss policy of a code (R43, R199). -/
def missPolicyOf (b : Byte) : Option MissPolicy :=
  match b.toNat with
  | 0 => some .error
  | 1 => some .fill
  | _ => none

/-- The globals as their 2 bytes (R199). -/
def encodeGlobals (g : Globals) : List Byte :=
  [g.missPolicy.code, g.fillByte]

/-- The globals from their 2 bytes; none when the miss policy code is neither (R43). -/
def decodeGlobals (bytes : List Byte) : Option Globals :=
  match bytes with
  | [policy, fill] =>
    match missPolicyOf policy with
    | none => none
    | some m => some { missPolicy := m, fillByte := fill }
  | _ => none

/-! ### Fault records (R200) -/

/-- Fault kind codes (R202). -/
def FaultCause.code : FaultCause → Byte
  | .miss => 1
  | .straddle _ => 2
  | .rights _ => 3
  | .timeout _ _ _ _ _ _ => 4
  | .bankRange _ _ _ => 5

/-- The window index of a record, where present (R143). -/
def FaultCause.window : FaultCause → Option (Fin 16)
  | .miss => none
  | .straddle w => w
  | .rights w => some w
  | .timeout _ w _ _ _ _ => some w
  | .bankRange w _ _ => some w

/-- Whether the origin is QUEUE (R143). -/
def FaultCause.fromQueue : FaultCause → Bool
  | .timeout q _ _ _ _ _ => q
  | .miss => false
  | .straddle _ => false
  | .rights _ => false
  | .bankRange _ _ _ => false

/-- Byte 8, the select, 0xFF when absent (R200). -/
def FaultCause.selectByte : FaultCause → Byte
  | .timeout _ _ sel _ _ _ => BitVec.ofNat 8 sel.val
  | .miss => 0xFF
  | .straddle _ => 0xFF
  | .rights _ => 0xFF
  | .bankRange _ _ _ => 0xFF

/-- Bytes 9–12, the physical address, 0 when absent (R200). -/
def FaultCause.physNat : FaultCause → Nat
  | .timeout _ _ _ p _ _ => p.toNat
  | .miss => 0
  | .straddle _ => 0
  | .rights _ => 0
  | .bankRange _ _ _ => 0

/-- Bytes 13–15, read by the kind (R200). -/
def FaultCause.tailBytes : FaultCause → List Byte
  | .timeout _ _ _ _ planned done => [BitVec.ofNat 8 planned, BitVec.ofNat 8 done, 0]
  | .bankRange _ candidate trigger => [BitVec.ofNat 8 trigger.val, 0, candidate]
  | .miss => [0, 0, 0]
  | .straddle _ => [0, 0, 0]
  | .rights _ => [0, 0, 0]

/-- Byte 7, the window index, 0xFF when absent (R200). -/
def windowByte : Option (Fin 16) → Byte
  | none => 0xFF
  | some w => BitVec.ofNat 8 w.val

/-- A fault record as its 16 bytes (R200). -/
def encodeFault (r : FaultRecord) : List Byte :=
  [r.seq, r.cause.code, yesNo r.cause.fromQueue, BitVec.ofNat 8 (accessCode r.access + 16 * r.len.bytes)]
    ++ leBytes 3 r.start.toNat ++ [windowByte r.cause.window, r.cause.selectByte]
    ++ leBytes 4 r.cause.physNat ++ r.cause.tailBytes

/-! ### Responses and frames (R195, R196) -/

/-- The byte sum (R196). -/
def byteSum : List Byte → Byte
  | [] => 0
  | b :: bs => b + byteSum bs

/-- A response with the check that makes its byte sum 0 (R170, R196). -/
def makeResponse (status : Status) (payload : List Byte) : Response :=
  { status := status, payload := payload,
    check := 0 - (status.code + BitVec.ofNat 8 payload.length + byteSum payload) }

/-- The frames of a response in sending order: status, length, payload, check (R171, R196). -/
def Response.frames (r : Response) : List Byte :=
  [r.status.code, BitVec.ofNat 8 r.payload.length] ++ r.payload ++ [r.check]

/-- Bit k of a data frame the part sends (R195): start low, data least significant first, mark 0, stop high. -/
def dataFrameBit (data : Byte) (k : Nat) : Bool :=
  if k = 0 then false
  else if k ≤ 8 then data.getLsbD (k - 1)
  else if k = 9 then false
  else true

/-- R160: two or three high samples make a 1. -/
def majority (a b c : Bool) : Bool :=
  (a && b) || (a && c) || (b && c)

/-- The bits decided from samples taken three to a bit (R159, R160). -/
def decidedBits : List Bool → List Bool
  | a :: b :: c :: rest => majority a b c :: decidedBits rest
  | _ => []

/-- The byte of bits given least significant first. -/
def byteOfBits : List Bool → Nat
  | [] => 0
  | b :: bs => b.toNat + 2 * byteOfBits bs

/-- R161: what a frame is, by its stop bit, mark bit and data. -/
def classifyFrame (stop mark : Bool) (data : Byte) : FrameKind :=
  if stop then (if mark then .address data else .data data)
  else if isBreakPattern mark data then .linkBreak
  else .framingError

/-- R159, R195: the data of a frame, from its bits 1 to 8. -/
def frameData (bits : List Bool) : Byte :=
  BitVec.ofNat 8 (byteOfBits ((bits.drop 1).take 8))

/-- The kind of a frame from its 11 decided bits (R161, R195). -/
def frameKind (bits : List Bool) : FrameKind :=
  classifyFrame (bits.getD 10 false) (bits.getD 9 false) (frameData bits)

/-! ### The operand on the processor port (R2) -/

/-- Operand bytes right-justified on the four lanes, 0 above (R2). -/
def operandLanes (bytes : List Byte) : Vector Byte 4 :=
  #v[bytes.getD 0 0, bytes.getD 1 0, bytes.getD 2 0, bytes.getD 3 0]

/-- DONE with operand bytes; a WRITE has none (R2). -/
def answerDone (bytes : List Byte) : PortAnswer :=
  .done (operandLanes bytes)

/-- ERROR, every lane 0 (R2). -/
def answerError : PortAnswer :=
  .error (operandLanes [])

/-- The last covered byte, start + length − 1, not wrapped (R24). -/
def lastByte (a : Access) : Nat :=
  a.start.toNat + a.len.bytes - 1

end Sys2Proof.Machine
end

