-- ==== Sys2Proof/Machine/Beats.lean ====
section
/-! DEFINITION. The beat planner (section 5.3), lane steering (section 5.4) and the overlap of R131. -/
namespace Sys2Proof.Machine

/-- The physical address k bytes above p. -/
def addrAbove (p : PAddr) (k : Nat) : PAddr :=
  BitVec.ofNat 26 (p.toNat + k)

/-- R89: one lane-0 beat per covered byte of a width-8 transaction. -/
def planNarrow (p : PAddr) (len : Nat) : List Beat :=
  (List.range len).map fun i => { addr := addrAbove p i, lanes := .lane0 i }

/-- R90: the walk of a width-16 transaction from operand position pos, address a, with r bytes left. -/
def planWide (a : Nat) (pos : Nat) : Nat → List Beat
  | 0 => []
  | 1 =>
    if a % 2 = 1 then [{ addr := BitVec.ofNat 26 a, lanes := .lane1 pos }]
    else [{ addr := BitVec.ofNat 26 a, lanes := .lane0 pos }]
  | r + 2 =>
    if a % 2 = 1 then { addr := BitVec.ofNat 26 a, lanes := .lane1 pos } :: planWide (a + 1) (pos + 1) (r + 1)
    else { addr := BitVec.ofNat 26 a, lanes := .both pos (pos + 1) } :: planWide (a + 2) (pos + 2) r

/-- R87: the beat list from physical start, length and width alone. -/
def planBeats (p : PAddr) (len : Len) (width : Width) : List Beat :=
  match width with
  | .w8 => planNarrow p len.bytes
  | .w16 => planWide p.toNat 0 len.bytes

/-- R88: the number of bytes a beat moves. -/
def BeatLanes.byteCount : BeatLanes → Nat
  | .lane0 _ => 1
  | .lane1 _ => 1
  | .both _ _ => 2

/-- R93: whether lane 0 is used. -/
def BeatLanes.uses0 : BeatLanes → Bool
  | .lane0 _ => true
  | .lane1 _ => false
  | .both _ _ => true

/-- R93: whether lane 1 is used. -/
def BeatLanes.uses1 : BeatLanes → Bool
  | .lane0 _ => false
  | .lane1 _ => true
  | .both _ _ => true

/-- R93: the bytes a WRITE beat drives on lanes 0 and 1, an unused lane as 0. -/
def BeatLanes.drive (l : BeatLanes) (data : List Byte) : Byte × Byte :=
  match l with
  | .lane0 p => (data.getD p 0, 0)
  | .lane1 p => (0, data.getD p 0)
  | .both p q => (data.getD p 0, data.getD q 0)

/-- R95: the operand positions filled from the bytes taken on the used lanes. -/
def BeatLanes.fill (l : BeatLanes) (lane0 lane1 : Byte) (collected : List (Option Byte)) : List (Option Byte) :=
  match l with
  | .lane0 p => collected.set p (some lane0)
  | .lane1 p => collected.set p (some lane1)
  | .both p q => (collected.set p (some lane0)).set q (some lane1)

/-- R95: the collected operand when PP enters ACTIVE: every position empty; none for a WRITE. -/
def emptyOperand (t : Txn) : List (Option Byte) :=
  match t.kind with
  | .write => []
  | .read => List.replicate t.len.bytes none
  | .fetch => List.replicate t.len.bytes none

/-- The operand once every position is filled (R95). -/
def operandBytes (collected : List (Option Byte)) : List Byte :=
  collected.map fun b => b.getD 0

/-- R91: the physical bytes of a transaction. -/
def Txn.bytes (t : Txn) : List Nat :=
  (List.range t.len.bytes).map fun i => t.physStart.toNat + i

/-- R131: same select and at least one physical byte in common. -/
def Txn.overlaps (t u : Txn) : Bool :=
  t.select == u.select && t.bytes.any fun b => u.bytes.contains b

/-- Whether any queue entry overlaps the transaction (R132). -/
def anyOverlap (entries : List QueueEntry) (t : Txn) : Bool :=
  entries.any fun e => e.txn.overlaps t

end Sys2Proof.Machine
end

