-- ==== Sys2Proof/Machine/Flags.lean ====
section
/-! DEFINITION. The fault log's operations with the overflow flag and ALERT, and the saturating counters. -/
namespace Sys2Proof.Machine

/-- The capacity of the fault log (R146). -/
def logCapacity : Nat := 8

/-- R154: ALERT is asserted exactly when the log holds a record and the alert enable is yes. -/
def FaultLog.withAlert (l : FaultLog) : FaultLog :=
  { l with alert := !l.records.isEmpty && l.alertEnable }

/-- FL takes a raised fault (R145 to R148): it gets the counter's number; with room it joins the tail, else it
is lost and sets the overflow flag; ALERT follows (R154). -/
def FaultLog.raise (l : FaultLog) (cause : FaultCause) (access : AccessKind) (len : Len) (start : LAddr) :
    FaultLog :=
  if l.records.length < logCapacity then
    FaultLog.withAlert
      { l with
        records := l.records ++ [{ seq := l.nextSeq, cause := cause, access := access, len := len, start := start }]
        nextSeq := l.nextSeq + 1 }
  else
    FaultLog.withAlert { l with overflow := true, nextSeq := l.nextSeq + 1 }

/-- REMOVE_FAULTS of n records (R150): the oldest go, the overflow flag is cleared if none is left, ALERT
follows (R154). -/
def FaultLog.remove (l : FaultLog) (n : Nat) : FaultLog :=
  FaultLog.withAlert
    { l with
      records := l.records.drop n
      overflow := if (l.records.drop n).isEmpty then false else l.overflow }

/-- SET_ALERT (R153, R154). -/
def FaultLog.setEnable (l : FaultLog) (enable : Bool) : FaultLog :=
  FaultLog.withAlert { l with alertEnable := enable }

/-- Raise a fault of an access (R142). -/
def raiseFault (cause : FaultCause) (access : AccessKind) (len : Len) (start : LAddr) (s : State) : State :=
  s.setFl (s.fl.raise cause access len start)

/-- R174: an increment at 255 leaves a link status counter at 255. -/
def bump (c : Byte) : Byte :=
  if c = 255 then 255 else c + 1

end Sys2Proof.Machine
end

