-- ==== Sys2Proof/Machine/Link.lean ====
section
/-! DEFINITION. The service link's own operations: bit period, responses, selection, the ends of a
conversation (chapter 9). -/
namespace Sys2Proof.Machine

/-- R158: part-clock periods per bit period. -/
def linkDivisor (st : Straps) : Nat :=
  32 * 2 ^ st.rateValue

/-- R168: the gap timeout in part-clock periods, 40 bit periods. -/
def gapLimit (st : Straps) : Nat :=
  40 * linkDivisor st

/-- R170: the turnaround in part-clock periods, 2 bit periods. -/
def turnaroundLimit (st : Straps) : Nat :=
  2 * linkDivisor st

/-- R158: one sixteenth of a bit period in part-clock periods. -/
def sixteenth (st : Straps) : Nat :=
  2 * 2 ^ st.rateValue

/-- R159: the sampling instants, one sixteenth of a bit period before, at and after each half bit: the
sixteenths 16k + 7, 16k + 8, 16k + 9. -/
def isSampleInstant (st : Straps) (t : Nat) : Bool :=
  t % sixteenth st == 0 && decide (7 ≤ t / sixteenth st % 16 ∧ t / sixteenth st % 16 ≤ 9)

/-- R159: the frame receiver's line state after a frame, by its stop bit. -/
def ServiceLink.closeFrame (l : ServiceLink) (stop : Bool) : ServiceLink :=
  { l with line := if stop then .hunt else .waitHigh, rxTime := 0, samples := [] }

/-- R159: a falling edge in HUNT begins a frame; its period is time 0. -/
def ServiceLink.beginFrame (l : ServiceLink) : ServiceLink :=
  { l with line := .sampling, rxTime := 0, samples := [] }

/-- R163: the receiver state an address frame's value gives. -/
def selectionOf (unit : BitVec 5) (v : Byte) : Receiver :=
  if v.toNat = 31 then .selected .broadcast
  else if v.toNat ≤ 30 ∧ v.toNat = unit.toNat then .selected .addressed
  else .unselected

/-- Both buffers empty, nothing to send, no gap timer, no selection held over. -/
def ServiceLink.clearConversation (l : ServiceLink) : ServiceLink :=
  { l with command := none, response := none, transmitter := .off, heldOver := none, gapTimer := none }

/-- R170: an addressed unit goes to RESPONDING; the first frame begins at once when the turnaround has passed
already, as it may after a DRAIN that waited. -/
def ServiceLink.respond (l : ServiceLink) (st : Straps) (status : Status) (payload : List Byte) : ServiceLink :=
  { l with
    receiver := .responding
    command := none
    response := some (makeResponse status payload)
    transmitter := if turnaroundLimit st ≤ l.sinceCommand then .sending 0 0 0 else .turnaround
    gapTimer := none }

/-- R172: under BROADCAST the unit returns to SELECTED BROADCAST, waiting for an opcode, with no response. -/
def ServiceLink.returnToBroadcast (l : ServiceLink) : ServiceLink :=
  { l with receiver := .selected .broadcast, command := none, gapTimer := none }

/-- R169, R170, R172: the end of an execution, with the status and payload the owning block made. -/
def ServiceLink.finish (l : ServiceLink) (st : Straps) (status : Status) (payload : List Byte) : ServiceLink :=
  match l.receiver with
  | .executing .addressed => l.respond st status payload
  | .executing .broadcast => l.returnToBroadcast
  | .unselected => l
  | .selected _ => l
  | .responding => l

/-- The end of an execution, on the whole state. -/
def finishExecution (status : Status) (payload : List Byte) (s : State) : State :=
  s.setSl (s.sl.finish s.straps status payload)

/-- R139, R163, R173: a DRAIN in EXECUTING is abandoned and its marker released without counts. -/
def abandonDrain (s : State) : State :=
  match s.sl.receiver with
  | .executing _ => s.setWq { s.wq with marker := none }
  | .unselected => s
  | .selected _ => s
  | .responding => s

/-- R163: what an address frame does: while a response frame is being sent the value is held over, else the
unit drops what it was doing and takes the selection. -/
def takeAddress (v : Byte) (s : State) : State :=
  match s.sl.transmitter with
  | .sending _ _ _ => s.setSl { s.sl with heldOver := some v }
  | .off | .turnaround =>
    (abandonDrain s).setSl
      { s.sl.clearConversation with receiver := selectionOf s.straps.unitAddress v }

/-- R173: what a break does. -/
def takeBreak (s : State) : State :=
  (abandonDrain s).setSl
    { s.sl.clearConversation with
      receiver := .unselected
      counters := { s.sl.counters with breaks := bump s.sl.counters.breaks } }

/-- R161, R168: a framing error is counted, leaves the conversation as it was, and restarts a running gap timer. -/
def takeFramingError (s : State) : State :=
  s.setSl { s.sl with
    gapTimer := s.sl.gapTimer.map fun _ => 0
    counters := { s.sl.counters with framing := bump s.sl.counters.framing } }

/-- R168: the gap timeout. -/
def takeGapTimeout (s : State) : State :=
  s.setSl { s.sl with
    receiver := .unselected
    command := none
    gapTimer := none
    counters := { s.sl.counters with gaps := bump s.sl.counters.gaps } }

/-- R168: the gap timeout is taken if its 40 bit periods have passed and no frame is under way. -/
def overdueGap (s : State) : State :=
  match s.sl.line, s.sl.gapTimer with
  | .hunt, some n => if gapLimit s.straps ≤ n then takeGapTimeout s else s
  | .waitHigh, some n => if gapLimit s.straps ≤ n then takeGapTimeout s else s
  | .sampling, _ => s
  | _, none => s

/-- R170: the first response frame begins. -/
def beginResponseFrames (s : State) : State :=
  s.setSl { s.sl with transmitter := .sending 0 0 0 }

/-- The number of frames of the response being sent (R171). -/
def responseFrameCount (l : ServiceLink) : Nat :=
  match l.response with
  | none => 0
  | some r => r.frames.length

/-- R163, R171: the end of the stop bit of response frame k: a selection held over is taken, else the next
frame starts, else the unit is SELECTED ADDRESSED and waits for an opcode. -/
def endResponseFrame (k : Nat) (s : State) : State :=
  match s.sl.heldOver with
  | some v =>
    s.setSl { s.sl.clearConversation with receiver := selectionOf s.straps.unitAddress v }
  | none =>
    if k + 1 < responseFrameCount s.sl then
      s.setSl { s.sl with transmitter := .sending (k + 1) 0 0 }
    else
      s.setSl { s.sl with receiver := .selected .addressed, response := none, transmitter := .off }

/-- The link output: true released (high), false driven low (R157, R171). -/
def linkOutput (l : ServiceLink) : Bool :=
  match l.transmitter, l.response with
  | .sending k b _, some r => dataFrameBit (r.frames.getD k 0) b
  | .sending _ _ _, none => true
  | .off, _ => true
  | .turnaround, _ => true

end Sys2Proof.Machine
end

