-- ==== Sys2Proof/Machine/MemoryPort.lean ====
section
/-! DEFINITION. The memory port, its arbiter, and what its reports do at PP and WQ (chapters 6 and 7). -/
namespace Sys2Proof.Machine

/-! ### Outputs (R100, R101, R104, R105, R112) -/

/-- The outputs of a beat in SETUP (R104). -/
def setupPins (t : Txn) (b : Beat) : MemPins :=
  { addr := b.addr, sel := some t.select, readStrobe := false, writeStrobe := false,
    le0 := b.lanes.uses0, le1 := b.lanes.uses1,
    data := if t.kind = .write then some (b.lanes.drive t.data) else none }

/-- The strobe of the beat's kind goes active, the rest stays (R105). -/
def MemPins.withStrobe (p : MemPins) (kind : AccessKind) : MemPins :=
  { p with readStrobe := decide (kind ≠ .write), writeStrobe := decide (kind = .write) }

/-- At the end of the strobe everything is inactive or released, the address lines keep the beat address (R112). -/
def MemPins.released (p : MemPins) : MemPins :=
  { p with sel := none, readStrobe := false, writeStrobe := false, le0 := false, le1 := false, data := none }

/-! ### Beats -/

/-- The record of the current transaction, in the block that owns it (R118). -/
def currentTxn (s : State) : Option Txn :=
  match s.mp.current with
  | none => none
  | some .port =>
    match s.pp with
    | .active _ t _ => some t
    | .idle => none
    | .held _ _ _ => none
  | some (.queue n) =>
    match s.wq.entries with
    | [] => none
    | e :: _ => if e.service = .inService ∧ e.seq = n then some e.txn else none

/-- The current transaction with the beat in progress (R97, R102). -/
def currentBeat (s : State) : Option (Txn × Beat) :=
  match currentTxn s with
  | none => none
  | some t => (t.beats[s.mp.beatIndex]?).map fun b => (t, b)

/-- A beat goes to STROBE with both counts 1 (R104). -/
def MemPort.enterStrobe (m : MemPort) (kind : AccessKind) : MemPort :=
  { m with phase := .strobe, phaseCount := 1, strobeCount := 1, pins := m.pins.withStrobe kind }

/-- Beat k of t starts: in SETUP, or straight in STROBE when setup is 0 (R104). -/
def MemPort.startBeat (m : MemPort) (t : Txn) (b : Beat) (k : Nat) : MemPort :=
  let started := { m with phase := .setup, beatIndex := k, phaseCount := 1, outcome := .none, pins := setupPins t b }
  if m.timing.setup = 0 then started.enterStrobe t.kind else started

/-- A grant: MP takes the transaction, copies its timing and starts the beat at beats done (R103). -/
def MemPort.grant (m : MemPort) (o : Origin) (t : Txn) (b : Beat) : MemPort :=
  MemPort.startBeat { m with current := some o, timing := t.timing } t b t.beatsDone

/-- The end of a beat's strobe (R105, R107, R110): outputs released, outcome set, RECOVERY begins. -/
def MemPort.endStrobe (m : MemPort) (outcome : BeatOutcome) : MemPort :=
  { m with phase := .recovery, phaseCount := 1, outcome := outcome, pins := m.pins.released }

/-- R103: MP is IDLE with no current transaction. -/
def MemPort.goIdle (m : MemPort) : MemPort :=
  { m with phase := .idle, current := none }

/-! ### The arbiter (R114) -/

/-- A queue entry that is granted the port (R121, R127). -/
def QueueEntry.serve (e : QueueEntry) : QueueEntry :=
  { e with service := .inService }

/-- A grant to the queue head if it is WAITING (R114, R127). -/
def grantHead (s : State) : State :=
  match s.wq.entries with
  | [] => s
  | e :: rest =>
    match e.service, e.txn.beats[e.txn.beatsDone]? with
    | .waiting, some b =>
      (s.setMp (s.mp.grant (.queue e.seq) e.txn b)).setWq { s.wq with entries := e.serve :: rest }
    | .waiting, none => s
    | .inService, _ => s

/-- A grant to the PP transaction: PP goes to ACTIVE with an empty collected operand (R11, R95, R114). -/
def grantPort (a : Access) (t : Txn) (s : State) : State :=
  match t.beats[t.beatsDone]? with
  | none => s
  | some b => (s.setMp (s.mp.grant .port t b)).setPp (.active a t (emptyOperand t))

/-- R114: the arbiter acts when MP is IDLE: the eligible PP transaction before the queue head. -/
def arbitrate (s : State) : State :=
  match s.mp.phase with
  | .idle =>
    match s.pp with
    | .held a t .grant => grantPort a t s
    | .held _ _ .space => grantHead s
    | .held _ _ .overlap => grantHead s
    | .held _ _ .empty => grantHead s
    | .idle => grantHead s
    | .active _ _ _ => grantHead s
  | .setup | .strobe | .readyWait | .recovery => s

/-! ### Admission and removal (R123 to R129) -/

/-- The capacity of the write queue (R122). -/
def queueCapacity : Nat := 8

/-- An admission at the tail: sequence number, counter, high-water mark (R123, R124, R125). -/
def WriteQueue.enqueue (q : WriteQueue) (t : Txn) : WriteQueue :=
  { q with
    entries := q.entries ++ [{ seq := q.nextSeq, service := .waiting, txn := { t with origin := .queue q.nextSeq } }]
    nextSeq := q.nextSeq + 1
    highWater := max q.highWater (q.entries.length + 1) }

/-- Admit a POSTED write and answer it DONE (R9, R10). -/
def admitWrite (t : Txn) (s : State) : State :=
  ((s.setWq (s.wq.enqueue t)).setPp .idle).setAnswer (some (answerDone []))

/-- R137: whether a sequence number lies from first marked to last marked, upward modulo 256. -/
def DrainMarker.contains (m : DrainMarker) (seq : Byte) : Bool :=
  decide ((seq - m.first).toNat ≤ (m.last - m.first).toNat)

/-- R138: the marker counts a removed entry of its range. -/
def DrainMarker.count (m : DrainMarker) (cause : RemovalCause) (seq : Byte) : DrainMarker :=
  if m.contains seq then
    match cause with
    | .completed => { m with completed := m.completed + 1 }
    | .timedOut => { m with timedOut := m.timedOut + 1 }
  else m

/-- R138, R193: at the removal of the last marked entry the marker is released and its counts end the DRAIN's
execution. -/
def settleMarker (cause : RemovalCause) (seq : Byte) (s : State) : State :=
  match s.wq.marker with
  | none => s
  | some m =>
    if seq = m.last then
      finishExecution .ok
        [BitVec.ofNat 8 (m.count cause seq).marked, BitVec.ofNat 8 (m.count cause seq).completed,
          BitVec.ofNat 8 (m.count cause seq).timedOut]
        (s.setWq { s.wq with marker := none })
    else s.setWq { s.wq with marker := some (m.count cause seq) }

/-- R10, R11, R126, R132, R133: PP's held access is taken again at a removal. -/
def retakeHeld (s : State) : State :=
  match s.pp with
  | .held _ t .space => admitWrite t s
  | .held a t .overlap => if anyOverlap s.wq.entries t then s else s.setPp (.held a t .grant)
  | .held a t .empty => if s.wq.entries.isEmpty then s.setPp (.held a t .grant) else s
  | .held _ _ .grant => s
  | .idle => s
  | .active _ _ _ => s

/-- R128, R129: the head leaves the queue, with all that belongs to the one removal. -/
def removeHead (cause : RemovalCause) (s : State) : State :=
  match s.wq.entries with
  | [] => s
  | e :: rest => retakeHeld (settleMarker cause e.seq (s.setWq { s.wq with entries := rest }))

/-! ### Reports (R118) -/

/-- One more beat done (R85). -/
def Txn.advance (t : Txn) : Txn :=
  { t with beatsDone := t.beatsDone + 1 }

/-- Whether the beat now reported is the last of the list (R85). -/
def Txn.onLastBeat (t : Txn) : Bool :=
  t.beatsDone + 1 == t.beats.length

/-- R12, R13: PP's action at a complete report of beat b of its transaction. -/
def portBeatDone (a : Access) (t : Txn) (b : Beat) (collected : List (Option Byte)) (lane0 lane1 : Byte) (s : State) :
    State :=
  let got := if t.kind = .write then collected else b.lanes.fill lane0 lane1 collected
  if t.onLastBeat then (s.setPp .idle).setAnswer (some (answerDone (operandBytes got)))
  else s.setPp (.active a t.advance got)

/-- R127, R128: WQ's action at a complete report of the head. -/
def queueBeatDone (e : QueueEntry) (rest : List QueueEntry) (s : State) : State :=
  if e.txn.onLastBeat then removeHead .completed s
  else s.setWq { s.wq with entries := { e with txn := e.txn.advance } :: rest }

/-- The owner's action at a complete report of beat b (R118). -/
def ownerBeatDone (b : Beat) (lane0 lane1 : Byte) (s : State) : State :=
  match s.mp.current with
  | none => s
  | some .port =>
    match s.pp with
    | .active a t collected => portBeatDone a t b collected lane0 lane1 s
    | .idle => s
    | .held _ _ _ => s
  | some (.queue _) =>
    match s.wq.entries with
    | [] => s
    | e :: rest => queueBeatDone e rest s

/-- The TIMEOUT cause of a transaction whose beat b failed (R14, R97, R129). -/
def timeoutCause (t : Txn) (b : Beat) (fromQueue : Bool) : FaultCause :=
  .timeout fromQueue t.window t.select b.addr t.beats.length t.beatsDone

/-- Raise TIMEOUT for a transaction (R14, R129). -/
def raiseTimeout (t : Txn) (b : Beat) (fromQueue : Bool) (s : State) : State :=
  raiseFault (timeoutCause t b fromQueue) t.kind t.len t.logicalStart s

/-- The owner's action at a timeout report of beat b of t (R111): PP answers ERROR (R14, R96), WQ removes the
head (R129). -/
def ownerTimeout (t : Txn) (b : Beat) (s : State) : State :=
  match s.mp.current with
  | none => s
  | some .port => ((raiseTimeout t b false s).setPp .idle).setAnswer (some answerError)
  | some (.queue _) => removeHead .timedOut (raiseTimeout t b true s)

/-- The end of a beat's RECOVERY (R103): the next beat of the same transaction, or IDLE and the arbiter. -/
def recoveryDone (s : State) : State :=
  match s.mp.outcome, currentTxn s with
  | .complete, some t =>
    match t.beats[s.mp.beatIndex + 1]? with
    | some b => s.setMp (s.mp.startBeat t b (s.mp.beatIndex + 1))
    | none => arbitrate (s.setMp s.mp.goIdle)
  | .complete, none => arbitrate (s.setMp s.mp.goIdle)
  | .timeout, _ => arbitrate (s.setMp s.mp.goIdle)
  | .none, _ => arbitrate (s.setMp s.mp.goIdle)

/-- R112, R118: with recovery 0 the report and the end of RECOVERY fall at one boundary, the report first. -/
def afterReport (s : State) : State :=
  if s.mp.timing.recovery = 0 then recoveryDone s else s

/-- A beat's strobe ends normally (R108). -/
def beatDone (b : Beat) (lane0 lane1 : Byte) (s : State) : State :=
  afterReport (ownerBeatDone b lane0 lane1 (s.setMp (s.mp.endStrobe .complete)))

/-- A beat reaches its ready limit (R110, R111). -/
def beatFailed (t : Txn) (b : Beat) (s : State) : State :=
  afterReport (ownerTimeout t b (s.setMp (s.mp.endStrobe .timeout)))

/-! ### Ends of phases, shared by the commands and by the part-clock period -/

/-- The last SETUP period ends (R104). -/
def endSetup (s : State) : Result :=
  match currentBeat s with
  | none => .fault .lostRecord
  | some (t, _) => .next (s.setMp (s.mp.enterStrobe t.kind))

/-- MRDY is sampled low in the last STROBE period and the beat goes to READY_WAIT (R106). -/
def enterReadyWait (s : State) : State :=
  s.setMp { s.mp with phase := .readyWait, strobeCount := s.mp.timing.strobe + 1 }

/-- The strobe of the beat in progress ends normally with these bytes on the lanes (R108). -/
def completeBeat (lane0 lane1 : Byte) (s : State) : Result :=
  match currentBeat s with
  | none => .fault .lostRecord
  | some (_, b) => .next (beatDone b lane0 lane1 s)

/-- The beat in progress times out (R110). -/
def timeoutBeat (s : State) : Result :=
  match currentBeat s with
  | none => .fault .lostRecord
  | some (t, b) => .next (beatFailed t b s)

/-- Whether the strobe of a beat is under way, so that it may end normally (R105 to R107). -/
def MemPort.strobeRunning (m : MemPort) : Bool :=
  match m.phase with
  | .strobe => true
  | .readyWait => true
  | .idle => false
  | .setup => false
  | .recovery => false

/-- R106: a READY beat whose limit is above the strobe may go to READY_WAIT. -/
def MemPort.mayWait (m : MemPort) : Bool :=
  decide (m.timing.mode = .ready ∧ m.timing.strobe < m.timing.limit)

/-- R106, R107, R110: a beat may time out in READY_WAIT, or in STROBE when the limit equals the strobe. -/
def MemPort.mayTimeOut (m : MemPort) : Bool :=
  match m.phase with
  | .strobe => decide (m.timing.mode = .ready ∧ m.timing.limit ≤ m.timing.strobe)
  | .readyWait => decide (m.timing.mode = .ready)
  | .idle => false
  | .setup => false
  | .recovery => false

end Sys2Proof.Machine
end

