-- ==== Sys2Proof/Machine/MemoryCommands.lean ====
section
/-! DEFINITION. The events of the memory port and the removals of the write queue. An event given as a command
is taken now, whatever period of its phase is running (log 4). -/
namespace Sys2Proof.Machine

/-- SETUP_END (R104). -/
def execSetupEnd (s : State) : Result :=
  if s.mp.phase = .setup then endSetup s else .refused .otherPhase

/-- READY_WAIT (R106): MRDY sampled low in the last STROBE period, the limit above the strobe. -/
def execReadyWait (s : State) : Result :=
  if s.mp.phase = .strobe then
    if s.mp.mayWait then .next (enterReadyWait s) else .refused .otherTiming
  else .refused .otherPhase

/-- BEAT_COMPLETE (R105 to R108, R118) with everything the report brings about. -/
def execBeatComplete (lane0 lane1 : Byte) (s : State) : Result :=
  if s.mp.strobeRunning then completeBeat lane0 lane1 s else .refused .otherPhase

/-- BEAT_TIMEOUT (R106, R107, R110, R111) with everything the report brings about. -/
def execBeatTimeout (s : State) : Result :=
  if s.mp.strobeRunning then
    if s.mp.mayTimeOut then timeoutBeat s else .refused .otherTiming
  else .refused .otherPhase

/-- RECOVERY_END (R103, R112, R114). -/
def execRecoveryEnd (s : State) : Result :=
  if s.mp.phase = .recovery then .next (recoveryDone s) else .refused .otherPhase

/-- Whether a report of the given cause removes the queue head now: the head is in service and, for a
completion, its last beat is in progress (R128, R129). -/
def headLeaves (cause : RemovalCause) (s : State) : Bool :=
  match s.mp.current, s.wq.entries with
  | some (.queue _), e :: _ =>
    match cause with
    | .completed => e.txn.onLastBeat
    | .timedOut => true
  | some (.queue _), [] => false
  | some .port, _ => false
  | none, _ => false

/-- The report that removes the queue head: a BEAT_COMPLETE, whose lanes a WRITE beat does not take, or a
BEAT_TIMEOUT (log 1). -/
def removalReport (cause : RemovalCause) (s : State) : Result :=
  match cause with
  | .completed => execBeatComplete 0 0 s
  | .timedOut => execBeatTimeout s

/-- Whether PP holds a write for SPACE (R126). -/
def heldForSpace (s : State) : Bool :=
  match s.pp with
  | .held _ _ .space => true
  | .held _ _ .overlap => false
  | .held _ _ .empty => false
  | .held _ _ .grant => false
  | .idle => false
  | .active _ _ _ => false

/-- Whether the removal of the head makes PP's held access eligible (R132, R133). -/
def becomesEligible (s : State) : Bool :=
  match s.pp with
  | .held _ t .overlap => !anyOverlap s.wq.entries.tail t
  | .held _ _ .empty => s.wq.entries.tail.isEmpty
  | .held _ _ .space => false
  | .held _ _ .grant => false
  | .idle => false
  | .active _ _ _ => false

/-- Whether the head is the last marked entry of a drain marker (R138). -/
def headLastMarked (s : State) : Bool :=
  match s.wq.marker, s.wq.entries with
  | some m, e :: _ => e.seq == m.last
  | some _, [] => false
  | none, _ => false

/-- SPACE_ADMISSION (R10, R126): the removal at which the write held for SPACE is admitted and answered. -/
def execSpaceAdmission (cause : RemovalCause) (s : State) : Result :=
  if heldForSpace s then
    if headLeaves cause s then removalReport cause s else .refused .noRemoval
  else .refused .noHeldWrite

/-- MOVE_TO_GRANT (R11, R132, R133): the removal at which the held access becomes eligible. -/
def execMoveToGrant (cause : RemovalCause) (s : State) : Result :=
  if headLeaves cause s then
    if becomesEligible s then removalReport cause s else .refused .noneEligible
  else .refused .noRemoval

/-- DRAIN_COMPLETE (R138, R193): the removal of the last marked entry, which ends the DRAIN's execution. -/
def execDrainComplete (cause : RemovalCause) (s : State) : Result :=
  if headLeaves cause s then
    if headLastMarked s then removalReport cause s else .refused .notLastMarked
  else .refused .noRemoval

end Sys2Proof.Machine
end

