-- ==== Sys2Proof/Machine/Tables.lean ====
section
/-! DEFINITION. The window decoder: decoding an arrival (chapter 2), staged writes and validation (chapter 3). -/
namespace Sys2Proof.Machine

/-- The size of a window in bytes (R19). -/
def WindowEntry.size (w : WindowEntry) : Nat :=
  2 ^ w.sizeExp

/-- R21: whether a logical byte lies in base .. base + 2^e − 1. -/
def WindowEntry.covers (w : WindowEntry) (a : Nat) : Bool :=
  decide (w.logicalBase.toNat ≤ a ∧ a < w.logicalBase.toNat + w.size)

/-- R28: whether the rights include the access kind. -/
def Rights.grants (r : Rights) (k : AccessKind) : Bool :=
  match k with
  | .fetch => r.fetch
  | .read => r.read
  | .write => r.write

/-- R25: the lowest-index valid window whose range contains the start byte. -/
def hitWindow (t : TableSet) (start : LAddr) : Option (Fin 16) :=
  windowIndices.find? fun i => t.windows[i].valid && t.windows[i].covers start.toNat

/-- The highest logical address (R24). -/
def logicalTop : Nat := 0xFFFFFF

/-- Decode an arrival by the four checks in order (R23 to R28). -/
def decodeAccess (t : TableSet) (a : Access) : DecodeResult :=
  if logicalTop < lastByte a then .straddle none
  else
    match hitWindow t a.start with
    | none => .miss
    | some w =>
      if t.windows[w].covers (lastByte a) then
        if t.windows[w].rights.grants a.kind then .accepted w else .rights w
      else .straddle (some w)

/-- R56: the live window is valid and BANKED. -/
def WindowEntry.isBanked (w : WindowEntry) : Bool :=
  w.valid && w.kind == .banked

/-! ### Validation (R45 to R48) -/

/-- R46: the end of a window's physical extent, the whole region for BANKED. -/
def WindowEntry.physEnd (w : WindowEntry) : Nat :=
  match w.kind with
  | .plain => w.physBase.toNat + w.size
  | .banked => w.physBase.toNat + w.bankCount * w.size

/-- The first failing check of a window (R46, R47); a window with valid no is passed over. -/
def windowFault (w : WindowEntry) : Option TableReason :=
  if w.valid then
    if w.logicalBase.toNat % w.size ≠ 0 then some .logicalAlign
    else if w.physBase.toNat % w.size ≠ 0 then some .physicalAlign
    else if 2 ^ 26 < w.physEnd then some .physicalTop
    else if w.kind = .banked ∧ w.bankCount ≤ w.initialBank.toNat then some .initialBank
    else if w.kind = .banked ∧ w.policy = .atLanding ∧ w.size ≤ w.landing.toNat then some .landingRange
    else none
  else none

/-- R48: whether an enabled trigger of lower index has the same address. -/
def hasDuplicate (t : TableSet) (i : Fin 4) : Bool :=
  triggerIndices.any fun j =>
    decide (j < i) && t.triggers[j].enabled && t.triggers[j].addr == t.triggers[i].addr

/-- The first failing check of a trigger (R48); a trigger with enabled no is passed over. -/
def triggerFault (t : TableSet) (i : Fin 4) : Option TableReason :=
  if t.triggers[i].enabled then
    if ¬ (t.windows[t.triggers[i].target].isBanked = true) then some .triggerTarget
    else if t.windows[t.triggers[i].target].covers t.triggers[i].addr.toNat then some .triggerSelf
    else if hasDuplicate t i then some .triggerDuplicate
    else none
  else none

/-- The first failure of the walk of R45, windows before triggers; none when the set is valid. -/
def validate (t : TableSet) : Option (TableReason × TableItem) :=
  match windowIndices.findSome? fun i => (windowFault t.windows[i]).map fun r => (r, TableItem.window i) with
  | some f => some f
  | none => triggerIndices.findSome? fun i => (triggerFault t i).map fun r => (r, TableItem.trigger i)

/-- R52: the bank states a successful APPLY_TABLE leaves: each valid BANKED window at its initial bank. -/
def initialBanks (t : TableSet) : Banks :=
  banksOf fun i =>
    if t.windows[i].isBanked then some { active := t.windows[i].initialBank, pending := none } else none

/-- A successful APPLY_TABLE: the copy and the bank reset (R51, R52). -/
def applyStaged (s : State) : State :=
  (s.setLive s.staged).setBanks (initialBanks s.staged)

/-! ### Staged writes (R41) -/

def TableSet.setWindow (t : TableSet) (i : Fin 16) (w : WindowEntry) : TableSet :=
  { t with windows := t.windows.set i w }

def TableSet.setProfile (t : TableSet) (i : Fin 8) (p : Profile) : TableSet :=
  { t with profiles := t.profiles.set i p }

def TableSet.setTrigger (t : TableSet) (i : Fin 4) (g : Trigger) : TableSet :=
  { t with triggers := t.triggers.set i g }

def TableSet.setGlobals (t : TableSet) (g : Globals) : TableSet :=
  { t with globals := g }

/-- The index of a payload byte, if it lies within the capacity n (R41, R176). -/
def indexWithin (n : Nat) (b : Byte) : Option (Fin n) :=
  if h : b.toNat < n then some ⟨b.toNat, h⟩ else none

/-- The set a code names: false LIVE, true STAGED; none for any other code (R180, R202). -/
def readSet (b : Byte) : Option Bool :=
  match b.toNat with
  | 0 => some false
  | 1 => some true
  | _ => none

/-- The named set (R180). -/
def namedSet (stagedSet : Bool) (s : State) : TableSet :=
  if stagedSet then s.staged else s.live

end Sys2Proof.Machine
end

