-- ==== Sys2Proof/Machine/Banks.lean ====
section
/-! DEFINITION. Bank control: sets, commits, captures and banked translation (chapter 4). -/
namespace Sys2Proof.Machine

/-- R65: a set of bank b by the commit policy. -/
def BankState.setBy (policy : CommitPolicy) (b : Byte) (k : BankState) : BankState :=
  match policy with
  | .atOnce => { k with active := b }
  | .onExit => { k with pending := some b }
  | .atLanding => { k with pending := some b }

/-- R66: a commit; without a pending bank nothing changes. -/
def BankState.commit (k : BankState) : BankState :=
  match k.pending with
  | none => k
  | some p => { active := p, pending := none }

/-- R75: SET_BANK in NOW mode. -/
def BankState.setNow (b : Byte) (_ : BankState) : BankState :=
  { active := b, pending := none }

/-- R76: CANCEL_PENDING. -/
def BankState.cancel (k : BankState) : BankState :=
  { k with pending := none }

/-- Change the bank state of window w, if it has one. -/
def updateBank (w : Fin 16) (f : BankState → BankState) (b : Banks) : Banks :=
  b.set w (b[w].map f)

/-- R68, R70: whether a FETCH at start, decoded as r, commits window i. -/
def fetchCommits (t : TableSet) (start : LAddr) (r : DecodeResult) (i : Fin 16) : Bool :=
  match t.windows[i].policy with
  | .atOnce => false
  | .onExit => !t.windows[i].covers start.toNat
  | .atLanding =>
    r == .accepted i && start.toNat == t.windows[i].logicalBase.toNat + t.windows[i].landing.toNat

/-- Step 2 of R5: every commit that a FETCH causes (R72). -/
def commitForFetch (t : TableSet) (start : LAddr) (r : DecodeResult) (b : Banks) : Banks :=
  banksOf fun i => if fetchCommits t start r i then b[i].map BankState.commit else b[i]

/-- The bank states after the commits of an arrival (R5 step 2, R59): READ and WRITE commit nothing. -/
def banksAtArrival (s : State) (a : Access) (r : DecodeResult) : Banks :=
  match a.kind with
  | .fetch => commitForFetch s.live a.start r s.banks
  | .read => s.banks
  | .write => s.banks

/-- R32, R58: the physical start of an access accepted in window w; none when a BANKED window has no bank
state, which no run reaches (R56). -/
def physicalStart (t : TableSet) (b : Banks) (w : Fin 16) (start : LAddr) : Option PAddr :=
  match t.windows[w].kind with
  | .plain => some (BitVec.ofNat 26 (t.windows[w].physBase.toNat + (start.toNat - t.windows[w].logicalBase.toNat)))
  | .banked =>
    b[w].map fun k => BitVec.ofNat 26
      (t.windows[w].physBase.toNat + k.active.toNat * t.windows[w].size
        + (start.toNat - t.windows[w].logicalBase.toNat))

/-- R61, R63: BC takes the candidate byte of trigger j carried by the WRITE a. -/
def captureOne (a : Access) (candidate : Byte) (s : State) (j : Fin 4) : State :=
  if candidate.toNat < s.live.windows[s.live.triggers[j].target].bankCount then
    s.setBanks (updateBank s.live.triggers[j].target
      (BankState.setBy s.live.windows[s.live.triggers[j].target].policy candidate) s.banks)
  else
    raiseFault (.bankRange s.live.triggers[j].target candidate j) .write a.len a.start s

/-- R60: whether trigger j is enabled and watches the logical byte addr. -/
def triggerMatches (t : TableSet) (addr : Nat) (j : Fin 4) : Bool :=
  t.triggers[j].enabled && t.triggers[j].addr.toNat == addr

/-- The captures of the operand byte at logical address addr (R61; by R62 at most one trigger matches). -/
def captureByte (a : Access) (addr : Nat) (candidate : Byte) (s : State) : State :=
  (triggerIndices.filter (triggerMatches s.live addr)).foldl (captureOne a candidate) s

/-- The captures of operand bytes from logical address addr on, in ascending address order (R62). -/
def captureBytes (a : Access) : Nat → List Byte → State → State
  | _, [], s => s
  | addr, b :: bs, s => captureBytes a (addr + 1) bs (captureByte a addr b s)

/-- Step 4 of R5: an accepted WRITE is examined for triggers (R60); other accesses are not. -/
def captureWrite (a : Access) (s : State) : State :=
  match a.kind with
  | .write => captureBytes a a.start.toNat a.data s
  | .read => s
  | .fetch => s

end Sys2Proof.Machine
end

