-- ==== Sys2Proof/Machine/ProcessorPort.lean ====
section
/-! DEFINITION. What an arrival at the processor port does (chapter 1), and the reset of the part. -/
namespace Sys2Proof.Machine

/-- Answer the access and leave PP IDLE (R3). -/
def answerPort (answer : PortAnswer) (s : State) : State :=
  (s.setPp .idle).setAnswer (some answer)

/-- R6, R29: a refused access raises its fault and is answered ERROR. -/
def refuseAccess (cause : FaultCause) (a : Access) (s : State) : State :=
  answerPort answerError (raiseFault cause a.kind a.len a.start s)

/-- R7: the bytes a FILLED access is answered with: the fill byte for READ and FETCH, none for WRITE. -/
def fillBytes (a : Access) (fill : Byte) : List Byte :=
  match a.kind with
  | .write => []
  | .read => List.replicate a.len.bytes fill
  | .fetch => List.replicate a.len.bytes fill

/-- R26, R34: a MISS raises its fault and is answered by the live miss policy. -/
def missAccess (a : Access) (s : State) : State :=
  match s.live.globals.missPolicy with
  | .error => refuseAccess .miss a s
  | .fill => answerPort (answerDone (fillBytes a s.live.globals.fillByte)) (raiseFault .miss a.kind a.len a.start s)

/-- R83: the transaction record of an access accepted in window w at physical start p. -/
def formTxn (t : TableSet) (w : Fin 16) (a : Access) (p : PAddr) : Txn :=
  { kind := a.kind, origin := .port, window := w, logicalStart := a.start, select := t.windows[w].select,
    physStart := p, len := a.len, width := t.windows[w].width, timing := t.profiles[t.windows[w].profile],
    order := t.windows[w].order, data := a.data, beats := planBeats p a.len t.windows[w].width, beatsDone := 0 }

/-- R8: an accepted WRITE in a RELAXED window is POSTED, everything else CARRIED. -/
def isPosted (t : Txn) : Bool :=
  t.kind == .write && t.order == .relaxed

/-- R11, R132, R133: the wait condition of a CARRIED access at its arrival. -/
def carriedWait (t : Txn) (entries : List QueueEntry) : Wait :=
  match t.order with
  | .relaxed => if anyOverlap entries t then .overlap else .grant
  | .ordered => if entries.isEmpty then .grant else .empty

/-- R9, R11: the outcome of an accepted access with record t. -/
def routeAccess (a : Access) (t : Txn) (s : State) : State :=
  if isPosted t then
    if s.wq.entries.length < queueCapacity then arbitrate (admitWrite t s)
    else s.setPp (.held a t .space)
  else arbitrate (s.setPp (.held a t (carriedWait t s.wq.entries)))

/-- Steps 3 to 6 of R5 for an access accepted in window w. -/
def acceptAccess (w : Fin 16) (a : Access) (s : State) : Result :=
  match physicalStart s.live s.banks w a.start with
  | none => .fault .noBankState
  | some p => .next (routeAccess a (formTxn s.live w a p) (captureWrite a s))

/-- R5: an arrival in IDLE, all its steps in order. -/
def takeArrival (a : Access) (s : State) : Result :=
  let r := decodeAccess s.live a
  let s1 := (s.setBanks (banksAtArrival s a r)).setAnswer none
  match r with
  | .accepted w => acceptAccess w a s1
  | .miss => .next (missAccess a s1)
  | .straddle w => .next (refuseAccess (.straddle w) a s1)
  | .rights w => .next (refuseAccess (.rights w) a s1)

/-- R16, R38, R57, R120, R141, R156, R175: RESET takes hold of every block. The sets hold the boot set with
the boot width sampled last until the release samples it anew (log 8). -/
def holdReset (s : State) : State :=
  { State.released s.straps s.sl.linkIn with
    pending := s.pending, period := s.period, resetHeld := true }

/-- The release of RESET with the straps sampled (R38, R39, R175), before a raised request is taken. -/
def releaseReset (p : StrapLevels) (linkHigh : Bool) (s : State) : State :=
  { State.released (sampleStraps p) linkHigh with pending := s.pending, period := s.period }

end Sys2Proof.Machine
end

