-- ==== Sys2Proof/Machine/PortCommands.lean ====
section
/-! DEFINITION. ACCESS_ARRIVAL, RESET and RESET_RELEASE. -/
namespace Sys2Proof.Machine

/-- ACCESS_ARRIVAL (R3, R5): in IDLE the raising of the request is an arrival; in HELD and ACTIVE the
processor's lines are not watched, and while RESET is held the request is not taken (log 15). -/
def execAccessArrival (a : Access) (s : State) : Result :=
  if a.wellFormed then
    if s.resetHeld then .next s
    else
      match s.pp with
      | .idle => takeArrival a s
      | .held _ _ _ => .next s
      | .active _ _ _ => .next s
  else .refused .illFormed

/-- RESET (R16, R38, R57, R120, R141, R156, R175). -/
def execReset (s : State) : Result :=
  .next (holdReset s)

/-- The access a raised request presents at the release of RESET, if it is one of R1's. -/
def requestWellFormed (request : Option Access) : Bool :=
  match request with
  | none => true
  | some a => a.wellFormed

/-- RESET_RELEASE (R16, R38, R39, R175): the straps are sampled and the boot set loaded; a request already
raised is an arrival. -/
def execResetRelease (p : StrapLevels) (linkHigh : Bool) (request : Option Access) (s : State) : Result :=
  if s.resetHeld then
    if requestWellFormed request then
      match request with
      | none => .next (releaseReset p linkHigh s)
      | some a => takeArrival a (releaseReset p linkHigh s)
    else .refused .illFormed
  else .refused .resetNotHeld

end Sys2Proof.Machine
end

