-- ==== Sys2Proof/Machine/Services.lean ====
section
/-! DEFINITION. What each service command does once its check is accepted (chapter 10): its judgement in the
order of R176, its effect, its status and response payload. The payload is the command's whole payload, so its
length is the length frame. -/
namespace Sys2Proof.Machine

/-- The end of a command's execution: at once with status and payload, or later (a DRAIN that set a marker). -/
inductive ServiceResult where
  | ended (s : State) (status : Status) (payload : List Byte)
  | waiting (s : State)
deriving DecidableEq, Repr

/-- The state after the execution, ended or not. -/
def ServiceResult.state : ServiceResult → State
  | .ended s _ _ => s
  | .waiting s => s

/-- A refused command changes no state and has no payload (R176). -/
def refuseCommand (status : Status) (s : State) : ServiceResult :=
  .ended s status []

/-- IDENTIFY (R179, R197): part code, revision, sampled straps, capacities. -/
def serviceIdentify (p : List Byte) (s : State) : ServiceResult :=
  match p with
  | [] => .ended s .ok
      [0x16, 0x24, 1, BitVec.ofNat 8 s.straps.unitAddress.toNat, BitVec.ofNat 8 s.straps.rateValue,
        BitVec.ofNat 8 s.straps.bootWidth.bits, 16, 8, 4, 8, 8]
  | _ => refuseCommand .badLength s

/-- READ_WINDOW (R180): index judged before the set (R176). -/
def serviceReadWindow (p : List Byte) (s : State) : ServiceResult :=
  match p with
  | [set, index] =>
    match indexWithin 16 index with
    | none => refuseCommand .badIndex s
    | some i =>
      match readSet set with
      | none => refuseCommand .badValue s
      | some staged => .ended s .ok (encodeWindow (namedSet staged s).windows[i])
  | _ => refuseCommand .badLength s

/-- WRITE_WINDOW (R41, R42, R181). -/
def serviceWriteWindow (p : List Byte) (s : State) : ServiceResult :=
  if p.length = 17 then
    match p with
    | [] => refuseCommand .badLength s
    | index :: entry =>
      match indexWithin 16 index with
      | none => refuseCommand .badIndex s
      | some i =>
        match decodeWindow entry with
        | none => refuseCommand .badValue s
        | some w => .ended (s.setStaged (s.staged.setWindow i w)) .ok []
  else refuseCommand .badLength s

/-- READ_PROFILE (R180). -/
def serviceReadProfile (p : List Byte) (s : State) : ServiceResult :=
  match p with
  | [set, index] =>
    match indexWithin 8 index with
    | none => refuseCommand .badIndex s
    | some i =>
      match readSet set with
      | none => refuseCommand .badValue s
      | some staged => .ended s .ok (encodeProfile (namedSet staged s).profiles[i])
  | _ => refuseCommand .badLength s

/-- WRITE_PROFILE (R43, R182). -/
def serviceWriteProfile (p : List Byte) (s : State) : ServiceResult :=
  if p.length = 7 then
    match p with
    | [] => refuseCommand .badLength s
    | index :: entry =>
      match indexWithin 8 index with
      | none => refuseCommand .badIndex s
      | some i =>
        match decodeProfile entry with
        | none => refuseCommand .badValue s
        | some f => .ended (s.setStaged (s.staged.setProfile i f)) .ok []
  else refuseCommand .badLength s

/-- READ_TRIGGER (R180). -/
def serviceReadTrigger (p : List Byte) (s : State) : ServiceResult :=
  match p with
  | [set, index] =>
    match indexWithin 4 index with
    | none => refuseCommand .badIndex s
    | some i =>
      match readSet set with
      | none => refuseCommand .badValue s
      | some staged => .ended s .ok (encodeTrigger (namedSet staged s).triggers[i])
  | _ => refuseCommand .badLength s

/-- WRITE_TRIGGER (R43, R182). -/
def serviceWriteTrigger (p : List Byte) (s : State) : ServiceResult :=
  if p.length = 6 then
    match p with
    | [] => refuseCommand .badLength s
    | index :: entry =>
      match indexWithin 4 index with
      | none => refuseCommand .badIndex s
      | some i =>
        match decodeTrigger entry with
        | none => refuseCommand .badValue s
        | some g => .ended (s.setStaged (s.staged.setTrigger i g)) .ok []
  else refuseCommand .badLength s

/-- READ_GLOBALS (R180). -/
def serviceReadGlobals (p : List Byte) (s : State) : ServiceResult :=
  match p with
  | [set] =>
    match readSet set with
    | none => refuseCommand .badValue s
    | some staged => .ended s .ok (encodeGlobals (namedSet staged s).globals)
  | _ => refuseCommand .badLength s

/-- WRITE_GLOBALS (R43, R182). -/
def serviceWriteGlobals (p : List Byte) (s : State) : ServiceResult :=
  if p.length = 2 then
    match decodeGlobals p with
    | none => refuseCommand .badValue s
    | some g => .ended (s.setStaged (s.staged.setGlobals g)) .ok []
  else refuseCommand .badLength s

/-- COPY_LIVE_TO_STAGED (R44, R183). -/
def serviceCopy (p : List Byte) (s : State) : ServiceResult :=
  match p with
  | [] => .ended (s.setStaged s.live) .ok []
  | _ => refuseCommand .badLength s

/-- APPLY_TABLE (R45 to R52, R184). -/
def serviceApply (p : List Byte) (s : State) : ServiceResult :=
  match p with
  | [] =>
    match validate s.staged with
    | none => .ended (applyStaged s) .ok []
    | some (reason, item) => .ended s .invalidTable (reason.code :: item.bytes)
  | _ => refuseCommand .badLength s

/-- The response payload of READ_BANK (R73, R185, R197). -/
def bankReport (w : WindowEntry) (k : BankState) : List Byte :=
  [BitVec.ofNat 8 (w.bankCount - 1), w.policy.code, k.active, yesNo k.pending.isSome, k.pending.getD 0]

/-- READ_BANK (R73, R77, R185). A banked live window always has its bank state (R56). -/
def serviceReadBank (p : List Byte) (s : State) : ServiceResult :=
  match p with
  | [index] =>
    match indexWithin 16 index with
    | none => refuseCommand .badIndex s
    | some w =>
      if s.live.windows[w].isBanked then
        match s.banks[w] with
        | some k => .ended s .ok (bankReport s.live.windows[w] k)
        | none => refuseCommand .notBanked s
      else refuseCommand .notBanked s
  | _ => refuseCommand .badLength s

/-- The effect of SET_BANK that passes (R74, R75); now is NOW mode. -/
def setBank (w : Fin 16) (bank : Byte) (now : Bool) (s : State) : State :=
  if now then s.setBanks (updateBank w (BankState.setNow bank) s.banks)
  else s.setBanks (updateBank w (BankState.setBy s.live.windows[w].policy bank) s.banks)

/-- SET_BANK (R77, R186): index, banked, mode, bank, in that order. -/
def serviceSetBank (p : List Byte) (s : State) : ServiceResult :=
  match p with
  | [index, bank, mode] =>
    match indexWithin 16 index with
    | none => refuseCommand .badIndex s
    | some w =>
      if s.live.windows[w].isBanked then
        match readYesNo mode with
        | none => refuseCommand .badValue s
        | some now =>
          if bank.toNat < s.live.windows[w].bankCount then .ended (setBank w bank now s) .ok []
          else refuseCommand .badValue s
      else refuseCommand .notBanked s
  | _ => refuseCommand .badLength s

/-- CANCEL_PENDING (R76, R77, R187). -/
def serviceCancel (p : List Byte) (s : State) : ServiceResult :=
  match p with
  | [index] =>
    match indexWithin 16 index with
    | none => refuseCommand .badIndex s
    | some w =>
      if s.live.windows[w].isBanked then .ended (s.setBanks (updateBank w BankState.cancel s.banks)) .ok []
      else refuseCommand .notBanked s
  | _ => refuseCommand .badLength s

/-- The response payload of READ_FAULTS (R149, R188). -/
def faultReport (l : FaultLog) : List Byte :=
  BitVec.ofNat 8 (min 3 l.records.length) :: yesNo l.overflow :: (l.records.take 3).flatMap encodeFault

/-- READ_FAULTS (R149, R188). -/
def serviceReadFaults (p : List Byte) (s : State) : ServiceResult :=
  match p with
  | [] => .ended s .ok (faultReport s.fl)
  | _ => refuseCommand .badLength s

/-- REMOVE_FAULTS (R150, R189). -/
def serviceRemoveFaults (p : List Byte) (s : State) : ServiceResult :=
  match p with
  | [n] =>
    if 1 ≤ n.toNat ∧ n.toNat ≤ 8 then
      .ended (s.setFl (s.fl.remove n.toNat)) .ok
        [BitVec.ofNat 8 (min n.toNat s.fl.records.length), BitVec.ofNat 8 (s.fl.records.length - n.toNat)]
    else refuseCommand .badValue s
  | _ => refuseCommand .badLength s

/-- SET_ALERT (R153, R190). -/
def serviceSetAlert (p : List Byte) (s : State) : ServiceResult :=
  match p with
  | [enable] =>
    match readYesNo enable with
    | none => refuseCommand .badValue s
    | some e => .ended (s.setFl (s.fl.setEnable e)) .ok []
  | _ => refuseCommand .badLength s

/-- The head sequence number READ_QUEUE reports: the counter's value when the queue is empty (R136). -/
def headSeq (q : WriteQueue) : Byte :=
  match q.entries with
  | [] => q.nextSeq
  | e :: _ => e.seq

/-- The response payload of READ_QUEUE (R136, R191). -/
def queueReport (q : WriteQueue) : List Byte :=
  [BitVec.ofNat 8 q.entries.length, BitVec.ofNat 8 q.highWater, headSeq q, q.nextSeq]

/-- READ_QUEUE (R136, R191): with clear yes the mark is set to the depth after the capture. -/
def serviceReadQueue (p : List Byte) (s : State) : ServiceResult :=
  match p with
  | [clear] =>
    match readYesNo clear with
    | none => refuseCommand .badValue s
    | some false => .ended s .ok (queueReport s.wq)
    | some true => .ended (s.setWq { s.wq with highWater := s.wq.entries.length }) .ok (queueReport s.wq)
  | _ => refuseCommand .badLength s

/-- The drain marker over the entries present (R137). -/
def markEntries (q : WriteQueue) : DrainMarker :=
  { first := headSeq q
    last := match q.entries.getLast? with
      | none => q.nextSeq
      | some e => e.seq
    marked := q.entries.length
    completed := 0
    timedOut := 0 }

/-- DRAIN (R137, R192): completes at once on an empty queue, else sets the marker and waits. -/
def serviceDrain (p : List Byte) (s : State) : ServiceResult :=
  match p with
  | [] =>
    if s.wq.entries.isEmpty then .ended s .ok [0, 0, 0]
    else .waiting (s.setWq { s.wq with marker := some (markEntries s.wq) })
  | _ => refuseCommand .badLength s

/-- The response payload of READ_LINK_STATUS (R194, R197). -/
def countersReport (c : LinkCounters) : List Byte :=
  [c.framing, c.badChecks, c.gaps, c.ignored, c.breaks]

/-- READ_LINK_STATUS (R174, R194). -/
def serviceLinkStatus (p : List Byte) (s : State) : ServiceResult :=
  match p with
  | [clear] =>
    match readYesNo clear with
    | none => refuseCommand .badValue s
    | some false => .ended s .ok (countersReport s.sl.counters)
    | some true => .ended (s.setSl { s.sl with counters := resetCounters }) .ok (countersReport s.sl.counters)
  | _ => refuseCommand .badLength s

/-- An opcode unknown to the part (R176, R201), whatever its length. -/
def serviceBadOpcode (_ : List Byte) (s : State) : ServiceResult :=
  refuseCommand .badOpcode s

/-- The opcodes (R201). -/
def opIdentify : Byte := 0x01
def opReadWindow : Byte := 0x10
def opWriteWindow : Byte := 0x11
def opReadProfile : Byte := 0x12
def opWriteProfile : Byte := 0x13
def opReadTrigger : Byte := 0x14
def opWriteTrigger : Byte := 0x15
def opReadGlobals : Byte := 0x16
def opWriteGlobals : Byte := 0x17
def opCopy : Byte := 0x18
def opApply : Byte := 0x19
def opReadBank : Byte := 0x20
def opSetBank : Byte := 0x21
def opCancel : Byte := 0x22
def opReadFaults : Byte := 0x30
def opRemoveFaults : Byte := 0x31
def opSetAlert : Byte := 0x32
def opReadQueue : Byte := 0x40
def opDrain : Byte := 0x41
def opLinkStatus : Byte := 0x50

/-- The opcodes with their executions (R169, R201). -/
def serviceTable : List (Byte × (List Byte → State → ServiceResult)) :=
  [(opIdentify, serviceIdentify), (opReadWindow, serviceReadWindow), (opWriteWindow, serviceWriteWindow),
    (opReadProfile, serviceReadProfile), (opWriteProfile, serviceWriteProfile),
    (opReadTrigger, serviceReadTrigger), (opWriteTrigger, serviceWriteTrigger),
    (opReadGlobals, serviceReadGlobals), (opWriteGlobals, serviceWriteGlobals), (opCopy, serviceCopy),
    (opApply, serviceApply), (opReadBank, serviceReadBank), (opSetBank, serviceSetBank),
    (opCancel, serviceCancel), (opReadFaults, serviceReadFaults), (opRemoveFaults, serviceRemoveFaults),
    (opSetAlert, serviceSetAlert), (opReadQueue, serviceReadQueue), (opDrain, serviceDrain),
    (opLinkStatus, serviceLinkStatus)]

/-- Whether an opcode is a command's (R201). -/
def isOpcode (op : Byte) : Bool :=
  serviceTable.any fun e => e.1 == op

/-- The execution an opcode names (R169, R176). -/
def serviceOf (op : Byte) : List Byte → State → ServiceResult :=
  match serviceTable.find? fun e => e.1 == op with
  | none => serviceBadOpcode
  | some e => e.2

end Sys2Proof.Machine
end

