-- ==== Sys2Proof/Machine/Frames.lean ====
section
/-! DEFINITION. Collecting a command from data frames and carrying it out (sections 9.4 and 9.5). -/
namespace Sys2Proof.Machine

/-- R166: the check frame adds its byte to the running sum like every frame before it. -/
def CommandBuffer.addCheck (c : CommandBuffer) (check : Byte) : CommandBuffer :=
  { c with sum := c.sum + check }

/-- R167: the check byte that is accepted, which brings the running sum to 0. -/
def CommandBuffer.acceptedCheck (c : CommandBuffer) : Byte :=
  0 - c.sum

/-- R169: an accepted check takes the unit to EXECUTING with the command c, its check added, in the buffer and the
gap timer stopped, counting from this frame. -/
def startExecution (sel : Selection) (c : CommandBuffer) (s : State) : State :=
  s.setSl { s.sl with receiver := .executing sel, command := some c, gapTimer := none, sinceCommand := 0 }

/-- R169, R170, R172: a complete command c, its check added, is executed at once; its execution ends at the same
instant unless it waits. -/
def carryOut (run : List Byte → State → ServiceResult) (sel : Selection) (c : CommandBuffer) (s : State) : State :=
  match run c.payload (startExecution sel c s) with
  | .ended t status payload => finishExecution status payload t
  | .waiting t => t

/-- R166, R167: a command ended at collection: an addressed unit responds with the status and no payload, a
broadcast one goes to the given receiver state; the command is discarded and the gap timer stops. -/
def endCollection (sel : Selection) (status : Status) (broadcastTo : Receiver) (s : State) : State :=
  match sel with
  | .addressed => s.setSl (ServiceLink.respond { s.sl with sinceCommand := 0 } s.straps status [])
  | .broadcast => s.setSl { s.sl with receiver := broadcastTo, command := none, gapTimer := none }

/-- R166: a length frame above 60; no counter increments. -/
def refuseLength (sel : Selection) (s : State) : State :=
  endCollection sel .badLength .unselected s

/-- R167: a check frame that is not accepted; the bad-check counter increments under either selection. -/
def refuseCheck (sel : Selection) (s : State) : State :=
  endCollection sel .badCheck (.selected .broadcast)
    (s.setSl { s.sl with counters := { s.sl.counters with badChecks := bump s.sl.counters.badChecks } })

/-- A frame taken into the command: the buffer is replaced and the gap timer restarts (R166). -/
def collect (c : CommandBuffer) (s : State) : State :=
  s.setSl { s.sl with command := some c, gapTimer := some 0 }

/-- R166: the opcode frame. -/
def takeOpcode (b : Byte) (s : State) : State :=
  collect { opcode := b, length := none, payload := [], sum := b } s

/-- Whether every payload byte that the length announces has been taken, so that the next frame is the check. -/
def CommandBuffer.complete (c : CommandBuffer) : Bool :=
  match c.length with
  | none => false
  | some n => decide (n.toNat ≤ c.payload.length)

/-- R166, R167: the check frame, judged by the running sum with its byte in it. -/
def takeCheck (sel : Selection) (c : CommandBuffer) (b : Byte) (s : State) : State :=
  if (c.addCheck b).sum = 0 then carryOut (serviceOf c.opcode) sel (c.addCheck b) s else refuseCheck sel s

/-- R166, R167: the frame after the opcode frame: length, payload byte or check. -/
def takeNext (sel : Selection) (c : CommandBuffer) (b : Byte) (s : State) : State :=
  match c.length with
  | none =>
    if maxPayload < b.toNat then refuseLength sel s
    else collect { c with length := some b, sum := c.sum + b } s
  | some _ =>
    if c.complete then takeCheck sel c b s
    else collect { c with payload := c.payload ++ [b], sum := c.sum + b } s

/-- R165: a data frame ignored in EXECUTING and RESPONDING is counted. -/
def ignoreFrame (s : State) : State :=
  s.setSl { s.sl with counters := { s.sl.counters with ignored := bump s.sl.counters.ignored } }

/-- R165: a data frame is taken according to the receiver state. -/
def takeData (b : Byte) (s : State) : State :=
  match s.sl.receiver with
  | .unselected => s
  | .executing _ => ignoreFrame s
  | .responding => ignoreFrame s
  | .selected sel =>
    match s.sl.command with
    | none => takeOpcode b s
    | some c => takeNext sel c b s

/-- The frame receiver ends its frame (R159); the level the stop bit was decided at stands on the input. -/
def frameEnded (stop : Bool) (s : State) : State :=
  s.setSl { s.sl.closeFrame stop with linkIn := stop }

/-- R161: a frame taken acts by its kind. -/
def takeFrame (k : FrameKind) (s : State) : State :=
  match k with
  | .address v => takeAddress v s
  | .data b => takeData b s
  | .linkBreak => takeBreak s
  | .framingError => takeFramingError s

end Sys2Proof.Machine
end

