-- ==== Sys2Proof/Config.lean ====
section
/-! DEFINITION. What the board and the instant fix, and the manual leaves open: free values with no body.
Each is indexed by the number of the part-clock period (the model's own counter State.period). Log 5 and 12. -/
namespace Sys2Proof

/-- The level of MRDY in part-clock period n (an input, R100, R106): free. -/
opaque Config.mrdyLevel : Nat → Bool

/-- The byte on data lane 0 in part-clock period n of a read beat (an input, R100, R108): free. -/
opaque Config.lane0Byte : Nat → Byte

/-- The byte on data lane 1 in part-clock period n of a read beat (an input, R100, R108): free. -/
opaque Config.lane1Byte : Nat → Byte

/-- The level of the link input in part-clock period n (an input, R159): free. -/
opaque Config.linkLevel : Nat → Bool

/-- Whether, in period n, the memory port's end-of-period event is taken before the link's: free (R148 and
R151 let either be taken first). -/
opaque Config.memoryPortFirst : Nat → Bool

/-- Whether, in period n, the link receiver's event is taken before the response transmitter's: free. -/
opaque Config.receiverFirst : Nat → Bool

end Sys2Proof
end

