-- ==== Sys2Proof/Machine/Period.lean ====
section
/-! DEFINITION. One part-clock period with no command: what the part does by its clock alone (log 3). -/
namespace Sys2Proof.Machine

/-- One more period of the phase now running. -/
def MemPort.countPhase (m : MemPort) : MemPort :=
  { m with phaseCount := m.phaseCount + 1 }

/-- One more period of the strobe, in STROBE (both counts) (R102). -/
def MemPort.countStrobe (m : MemPort) : MemPort :=
  { m with phaseCount := m.phaseCount + 1, strobeCount := m.strobeCount + 1 }

/-- One more period of the strobe, in READY_WAIT, which the strobe count alone times (R102). -/
def MemPort.countWait (m : MemPort) : MemPort :=
  { m with strobeCount := m.strobeCount + 1 }

/-- The end of the last STROBE period, with MRDY at the given level (R105, R106). -/
def lastStrobePeriod (mrdy : Bool) (lane0 lane1 : Byte) (s : State) : Result :=
  match s.mp.timing.mode with
  | .fixed => completeBeat lane0 lane1 s
  | .ready =>
    if mrdy then completeBeat lane0 lane1 s
    else if s.mp.timing.strobe < s.mp.timing.limit then .next (enterReadyWait s)
    else timeoutBeat s

/-- The memory port at the end of a period in which MRDY and the data lanes stood as given (R104 to R112). -/
def memoryPeriod (mrdy : Bool) (lane0 lane1 : Byte) (s : State) : Result :=
  match s.mp.phase with
  | .idle => .next s
  | .setup =>
    if s.mp.phaseCount < s.mp.timing.setup then .next (s.setMp s.mp.countPhase) else endSetup s
  | .strobe =>
    if s.mp.strobeCount < s.mp.timing.strobe then .next (s.setMp s.mp.countStrobe)
    else lastStrobePeriod mrdy lane0 lane1 s
  | .readyWait =>
    if mrdy then completeBeat lane0 lane1 s
    else if s.mp.strobeCount < s.mp.timing.limit then .next (s.setMp s.mp.countWait)
    else timeoutBeat s
  | .recovery =>
    if s.mp.phaseCount < s.mp.timing.recovery then .next (s.setMp s.mp.countPhase) else .next (recoveryDone s)

/-- Whether the count from the command's last frame is still wanted: while executing or in turnaround (R170). -/
def ServiceLink.countsFromCommand (l : ServiceLink) : Bool :=
  match l.receiver, l.transmitter with
  | .executing _, _ => true
  | .responding, .turnaround => true
  | .responding, .off => false
  | .responding, .sending _ _ _ => false
  | .unselected, _ => false
  | .selected _, _ => false

/-- One more part-clock period in the bit being sent. -/
def Transmitter.tick : Transmitter → Transmitter
  | .off => .off
  | .turnaround => .turnaround
  | .sending k b p => .sending k b (p + 1)

/-- The link's timers move on by one part-clock period. -/
def ServiceLink.advance (l : ServiceLink) : ServiceLink :=
  { l with
    rxTime := if l.line = .sampling then l.rxTime + 1 else l.rxTime
    gapTimer := l.gapTimer.map fun n => n + 1
    sinceCommand := if l.countsFromCommand then l.sinceCommand + 1 else l.sinceCommand
    transmitter := l.transmitter.tick }

/-- R160: a false start: the receiver discards what it has sampled and returns to HUNT. -/
def falseStart (s : State) : State :=
  s.setSl (s.sl.closeFrame true)

/-- The stop bit of the decided bits (R195). -/
def stopBit (bits : List Bool) : Bool :=
  bits.getD 10 false

/-- R159, R160: after a sample: at the third, the start bit is decided; at the last of the stop bit, the frame
is taken. -/
def afterSample (s : State) : State :=
  if s.sl.samples.length = 3 ∧ decidedBits s.sl.samples = [true] then falseStart s
  else if s.sl.samples.length = 33 then
    takeFrame (frameKind (decidedBits s.sl.samples))
      (s.setSl (s.sl.closeFrame (stopBit (decidedBits s.sl.samples))))
  else s

/-- R159: the frame receiver at the end of a period in which the link input stood at the given level; prev is
the level of the period before. -/
def receiveLevel (prev level : Bool) (s : State) : State :=
  match s.sl.line with
  | .hunt => if prev && !level then s.setSl s.sl.beginFrame else s
  | .waitHigh => if level then s.setSl (s.sl.closeFrame true) else s
  | .sampling =>
    if isSampleInstant s.straps s.sl.rxTime then
      afterSample (s.setSl { s.sl with samples := s.sl.samples ++ [level] })
    else s

/-- The gap timer and the link receiver in one period (R159, R160, R168). The timeout comes first: only a falling
edge of an earlier period has begun a frame before it. After a false start of this period it is looked at again. -/
def receiverPeriod (level : Bool) (s : State) : State :=
  overdueGap (receiveLevel s.sl.linkIn level (overdueGap (s.setSl { s.sl with linkIn := level })))

/-- The response transmitter in one period (R170, R171). -/
def transmitterPeriod (s : State) : State :=
  match s.sl.transmitter with
  | .off => s
  | .turnaround => if turnaroundLimit s.straps ≤ s.sl.sinceCommand then beginResponseFrames s else s
  | .sending k b p =>
    if linkDivisor s.straps ≤ p then
      if b < 10 then s.setSl { s.sl with transmitter := .sending k (b + 1) 0 } else endResponseFrame k s
    else s

/-- The link in one period; receiver and transmitter in either order (log 12). -/
def linkPeriod (receiverFirst level : Bool) (s : State) : State :=
  if receiverFirst then transmitterPeriod (receiverPeriod level s)
  else receiverPeriod level (transmitterPeriod s)

/-- One part-clock period while RESET is not held: the link's timers move on, then memory port and link act in
either order on the inputs of this period (log 5, 12). -/
def runPeriod (portFirst receiverFirst mrdy level : Bool) (lane0 lane1 : Byte) (s : State) : Result :=
  let s1 := (s.setPeriod (s.period + 1)).setSl s.sl.advance
  if portFirst then
    andThen (memoryPeriod mrdy lane0 lane1 s1) fun t => .next (linkPeriod receiverFirst level t)
  else memoryPeriod mrdy lane0 lane1 (linkPeriod receiverFirst level s1)

/-- One part-clock period with no command. While RESET is held nothing moves (R16, R120, R175). -/
def idlePeriod (s : State) : Result :=
  if s.resetHeld then .next (s.setPeriod (s.period + 1))
  else runPeriod (Config.memoryPortFirst s.period) (Config.receiverFirst s.period) (Config.mrdyLevel s.period)
    (Config.linkLevel s.period) (Config.lane0Byte s.period) (Config.lane1Byte s.period) s

end Sys2Proof.Machine
end

