-- ==== Sys2Proof/Machine/LinkCommands.lean ====
section
/-! DEFINITION. The events of the service link that are no service command. A frame event happens at the last
sample of its stop bit, so a falling edge must have begun the frame (R159). While RESET is held no frame is
taken (R175). -/
namespace Sys2Proof.Machine

/-- An event of the link input: nothing is taken while RESET is held (R175); otherwise it ends a frame that a
falling edge has begun (R159). -/
def whenSampling (s : State) (r : Result) : Result :=
  if s.resetHeld then .next s
  else if s.sl.line = .sampling then r
  else .refused .noFrameBegun

/-- FALLING_EDGE (R159): begins a frame in HUNT, and none inside a frame (R160). -/
def execFallingEdge (s : State) : Result :=
  if s.resetHeld then .next s
  else
    match s.sl.line with
    | .hunt => .next (s.setSl { s.sl.beginFrame with linkIn := false })
    | .sampling => .next (s.setSl { s.sl with linkIn := false })
    | .waitHigh => .refused .inputStillLow

/-- FALSE_START (R160): not counted, reaches no receiver state; an overdue gap timeout is taken now (R168). -/
def execFalseStart (s : State) : Result :=
  if s.resetHeld then .refused .resetIsHeld
  else if s.sl.line = .sampling then
    if s.sl.samples.length < 3 then .next (overdueGap (frameEnded true s)) else .refused .frameCommitted
  else .refused .noFrameBegun

/-- LINK_INPUT_HIGH (R159): from WAIT_HIGH back to HUNT; in the other line states only the level is seen. -/
def execLinkInputHigh (s : State) : Result :=
  if s.resetHeld then .next s
  else
    match s.sl.line with
    | .waitHigh => .next (s.setSl { s.sl.closeFrame true with linkIn := true })
    | .hunt => .next (s.setSl { s.sl with linkIn := true })
    | .sampling => .next (s.setSl { s.sl with linkIn := true })

/-- ADDRESS_FRAME (R163). -/
def execAddressFrame (v : Byte) (s : State) : Result :=
  whenSampling s (.next (takeAddress v (frameEnded true s)))

/-- DATA_FRAME (R165 to R167): a data frame in any receiver state and any place of a command (log 1). -/
def execDataFrame (b : Byte) (s : State) : Result :=
  whenSampling s (.next (takeData b (frameEnded true s)))

/-- BREAK (R173). -/
def execLinkBreak (s : State) : Result :=
  whenSampling s (.next (takeBreak (frameEnded false s)))

/-- FRAMING_ERROR (R161, R174). -/
def execFramingError (mark : Bool) (data : Byte) (s : State) : Result :=
  if isBreakPattern mark data then .refused .illFormed
  else whenSampling s (.next (takeFramingError (frameEnded false s)))

/-- The selection and the command being collected, when the next frame is its length frame (R166). -/
def awaitingLength (l : ServiceLink) : Option (Selection × CommandBuffer) :=
  match l.receiver, l.command with
  | .selected sel, some c => if c.length = none then some (sel, c) else none
  | .selected _, none => none
  | .unselected, _ => none
  | .executing _, _ => none
  | .responding, _ => none

/-- The selection and the command being collected, when the next frame is its check frame (R166, R167). -/
def awaitingCheck (l : ServiceLink) : Option (Selection × CommandBuffer) :=
  match l.receiver, l.command with
  | .selected sel, some c => if c.complete then some (sel, c) else none
  | .selected _, none => none
  | .unselected, _ => none
  | .executing _, _ => none
  | .responding, _ => none

/-- BAD_LENGTH (R166): the length frame, above 60. -/
def execBadLength (n : Byte) (s : State) : Result :=
  if n.toNat ≤ maxPayload then .refused .illFormed
  else if s.resetHeld then .refused .resetIsHeld
  else if s.sl.line = .sampling then
    match awaitingLength s.sl with
    | none => .refused .otherFrame
    | some (sel, _) => .next (refuseLength sel (frameEnded true s))
  else .refused .noFrameBegun

/-- BAD_CHECK (R167): the check frame, its sum not 0. -/
def execBadCheck (check : Byte) (s : State) : Result :=
  if s.resetHeld then .refused .resetIsHeld
  else if s.sl.line = .sampling then
    match awaitingCheck s.sl with
    | none => .refused .otherFrame
    | some (sel, c) =>
      if (c.addCheck check).sum = 0 then .refused .otherFrame else .next (refuseCheck sel (frameEnded true s))
  else .refused .noFrameBegun

/-- GAP_TIMEOUT (R168): while collecting, with no frame begun. -/
def execGapTimeout (s : State) : Result :=
  if s.sl.gapTimer.isSome ∧ s.sl.line ≠ .sampling then .next (takeGapTimeout s) else .refused .noGapTimer

/-- TURNAROUND_END (R170). -/
def execTurnaroundEnd (s : State) : Result :=
  match s.sl.transmitter with
  | .turnaround => .next (beginResponseFrames s)
  | .off => .refused .noResponse
  | .sending _ _ _ => .refused .noResponse

/-- RESPONSE_FRAME_END (R163, R171). -/
def execResponseFrameEnd (s : State) : Result :=
  match s.sl.transmitter with
  | .sending k _ _ => .next (endResponseFrame k s)
  | .off => .refused .noResponse
  | .turnaround => .refused .noResponse

end Sys2Proof.Machine
end

