-- ==== Sys2Proof/Machine/ServiceCommands.lean ====
section
/-! DEFINITION. The service commands as events: the taking of the accepted check frame of the command that
stands complete in the command buffer (R167, R169; log 1, 14). -/
namespace Sys2Proof.Machine

/-- The accepted check frame of a command that `isRow` knows as this row's is taken into the sum (R166), and `run`
carries the command out. -/
def serviceRow (isRow : CommandBuffer → Bool) (run : List Byte → State → ServiceResult) (s : State) : Result :=
  if s.resetHeld then .refused .resetIsHeld
  else if s.sl.line = .sampling then
    match awaitingCheck s.sl with
    | none => .refused .otherFrame
    | some (sel, c) =>
      if isRow c then
        .next (carryOut run sel (c.addCheck c.acceptedCheck) (frameEnded true s))
      else .refused .otherFrame
  else .refused .noFrameBegun

/-- The command in the buffer has this opcode (R201). -/
def hasOpcode (op : Byte) (c : CommandBuffer) : Bool :=
  c.opcode == op

/-- A SET_BANK that is not in NOW mode: FOLLOW, or refused before or at its mode (R77; log 13). -/
def isFollow (c : CommandBuffer) : Bool :=
  c.opcode == opSetBank && !(c.payload.length == 3 && c.payload.getD 2 0 == 1)

/-- A SET_BANK that is not in FOLLOW mode: NOW, or refused before or at its mode (R77; log 13). -/
def isNow (c : CommandBuffer) : Bool :=
  c.opcode == opSetBank && !(c.payload.length == 3 && c.payload.getD 2 0 == 0)

/-- An opcode that is no command's (R201). -/
def isUnknown (c : CommandBuffer) : Bool :=
  !isOpcode c.opcode

/-- IDENTIFY (R179). -/
def execIdentify (s : State) : Result :=
  serviceRow (hasOpcode opIdentify) serviceIdentify s

/-- READ_WINDOW (R180). -/
def execReadWindow (s : State) : Result :=
  serviceRow (hasOpcode opReadWindow) serviceReadWindow s

/-- WRITE_WINDOW (R41, R181). -/
def execWriteWindow (s : State) : Result :=
  serviceRow (hasOpcode opWriteWindow) serviceWriteWindow s

/-- READ_PROFILE (R180). -/
def execReadProfile (s : State) : Result :=
  serviceRow (hasOpcode opReadProfile) serviceReadProfile s

/-- WRITE_PROFILE (R41, R182). -/
def execWriteProfile (s : State) : Result :=
  serviceRow (hasOpcode opWriteProfile) serviceWriteProfile s

/-- READ_TRIGGER (R180). -/
def execReadTrigger (s : State) : Result :=
  serviceRow (hasOpcode opReadTrigger) serviceReadTrigger s

/-- WRITE_TRIGGER (R41, R182). -/
def execWriteTrigger (s : State) : Result :=
  serviceRow (hasOpcode opWriteTrigger) serviceWriteTrigger s

/-- READ_GLOBALS (R180). -/
def execReadGlobals (s : State) : Result :=
  serviceRow (hasOpcode opReadGlobals) serviceReadGlobals s

/-- WRITE_GLOBALS (R41, R182). -/
def execWriteGlobals (s : State) : Result :=
  serviceRow (hasOpcode opWriteGlobals) serviceWriteGlobals s

/-- COPY_LIVE_TO_STAGED (R44, R183). -/
def execCopyLiveToStaged (s : State) : Result :=
  serviceRow (hasOpcode opCopy) serviceCopy s

/-- APPLY_TABLE (R45 to R52, R184). -/
def execApplyTable (s : State) : Result :=
  serviceRow (hasOpcode opApply) serviceApply s

/-- READ_BANK (R73, R185). -/
def execReadBank (s : State) : Result :=
  serviceRow (hasOpcode opReadBank) serviceReadBank s

/-- SET_BANK in FOLLOW mode (R74, R186). -/
def execSetBankFollow (s : State) : Result :=
  serviceRow isFollow serviceSetBank s

/-- SET_BANK in NOW mode (R75, R186). -/
def execSetBankNow (s : State) : Result :=
  serviceRow isNow serviceSetBank s

/-- CANCEL_PENDING (R76, R187). -/
def execCancelPending (s : State) : Result :=
  serviceRow (hasOpcode opCancel) serviceCancel s

/-- READ_FAULTS (R149, R188). -/
def execReadFaults (s : State) : Result :=
  serviceRow (hasOpcode opReadFaults) serviceReadFaults s

/-- REMOVE_FAULTS (R150, R189). -/
def execRemoveFaults (s : State) : Result :=
  serviceRow (hasOpcode opRemoveFaults) serviceRemoveFaults s

/-- SET_ALERT (R153, R190). -/
def execSetAlert (s : State) : Result :=
  serviceRow (hasOpcode opSetAlert) serviceSetAlert s

/-- READ_QUEUE (R136, R191). -/
def execReadQueue (s : State) : Result :=
  serviceRow (hasOpcode opReadQueue) serviceReadQueue s

/-- DRAIN (R137, R192). -/
def execDrain (s : State) : Result :=
  serviceRow (hasOpcode opDrain) serviceDrain s

/-- READ_LINK_STATUS (R194). -/
def execReadLinkStatus (s : State) : Result :=
  serviceRow (hasOpcode opLinkStatus) serviceLinkStatus s

/-- BAD_OPCODE (R176, R201). -/
def execBadOpcode (s : State) : Result :=
  serviceRow isUnknown serviceBadOpcode s

end Sys2Proof.Machine
end

