-- ==== Sys2Proof/Machine/Dispatch.lean ====
section
/-! DEFINITION. One arm per command: each calls its meaning. -/
namespace Sys2Proof.Machine

def exec (i : Instr) (s : State) : Host.Outcome State Fault Refusal :=
  match i with
  | .accessArrival a => Sys2Proof.Machine.execAccessArrival a s
  | .setupEnd => Sys2Proof.Machine.execSetupEnd s
  | .readyWait => Sys2Proof.Machine.execReadyWait s
  | .beatComplete lane0 lane1 => Sys2Proof.Machine.execBeatComplete lane0 lane1 s
  | .beatTimeout => Sys2Proof.Machine.execBeatTimeout s
  | .recoveryEnd => Sys2Proof.Machine.execRecoveryEnd s
  | .spaceAdmission cause => Sys2Proof.Machine.execSpaceAdmission cause s
  | .moveToGrant cause => Sys2Proof.Machine.execMoveToGrant cause s
  | .drainComplete cause => Sys2Proof.Machine.execDrainComplete cause s
  | .reset => Sys2Proof.Machine.execReset s
  | .resetRelease straps linkHigh request => Sys2Proof.Machine.execResetRelease straps linkHigh request s
  | .addressFrame value => Sys2Proof.Machine.execAddressFrame value s
  | .dataFrame data => Sys2Proof.Machine.execDataFrame data s
  | .badLength n => Sys2Proof.Machine.execBadLength n s
  | .badCheck check => Sys2Proof.Machine.execBadCheck check s
  | .linkBreak => Sys2Proof.Machine.execLinkBreak s
  | .framingError mark data => Sys2Proof.Machine.execFramingError mark data s
  | .gapTimeout => Sys2Proof.Machine.execGapTimeout s
  | .turnaroundEnd => Sys2Proof.Machine.execTurnaroundEnd s
  | .responseFrameEnd => Sys2Proof.Machine.execResponseFrameEnd s
  | .identify => Sys2Proof.Machine.execIdentify s
  | .readWindow => Sys2Proof.Machine.execReadWindow s
  | .writeWindow => Sys2Proof.Machine.execWriteWindow s
  | .readProfile => Sys2Proof.Machine.execReadProfile s
  | .writeProfile => Sys2Proof.Machine.execWriteProfile s
  | .readTrigger => Sys2Proof.Machine.execReadTrigger s
  | .writeTrigger => Sys2Proof.Machine.execWriteTrigger s
  | .readGlobals => Sys2Proof.Machine.execReadGlobals s
  | .writeGlobals => Sys2Proof.Machine.execWriteGlobals s
  | .copyLiveToStaged => Sys2Proof.Machine.execCopyLiveToStaged s
  | .applyTable => Sys2Proof.Machine.execApplyTable s
  | .readBank => Sys2Proof.Machine.execReadBank s
  | .setBankFollow => Sys2Proof.Machine.execSetBankFollow s
  | .setBankNow => Sys2Proof.Machine.execSetBankNow s
  | .cancelPending => Sys2Proof.Machine.execCancelPending s
  | .readFaults => Sys2Proof.Machine.execReadFaults s
  | .removeFaults => Sys2Proof.Machine.execRemoveFaults s
  | .setAlert => Sys2Proof.Machine.execSetAlert s
  | .readQueue => Sys2Proof.Machine.execReadQueue s
  | .drain => Sys2Proof.Machine.execDrain s
  | .readLinkStatus => Sys2Proof.Machine.execReadLinkStatus s
  | .badOpcode => Sys2Proof.Machine.execBadOpcode s
  | .fallingEdge => Sys2Proof.Machine.execFallingEdge s
  | .falseStart => Sys2Proof.Machine.execFalseStart s
  | .linkInputHigh => Sys2Proof.Machine.execLinkInputHigh s

end Sys2Proof.Machine
end

