-- ==== Sys2Proof/Machine/Step.lean ====
section
/-! DEFINITION. One step: the command at the front of the queue, or a part-clock period when none waits. -/
namespace Sys2Proof.Machine

/-- One step. An empty queue does not stop the part: one part-clock period passes (log 3). -/
def step (s : State) : Host.Outcome State Fault Refusal :=
  match s.pending with
  | [] => idlePeriod s
  | c :: rest => exec c (s.setPending rest)

/-- The state with the command that the word spells at the front of the queue; the state itself where the word
spells none, which is always so here (log 25). -/
def State.withFetchWord (s : State) (nbits w : Nat) : State :=
  match decodeTableWord nbits w with
  | none => s
  | some c => s.setPending (c :: s.pending)

end Sys2Proof.Machine
end

