-- ==== Sys2Proof/Safety.lean ====
section
/-! DEFINITION. The invariants of the part: what holds in every state that a run reaches. -/
namespace Sys2Proof.Machine

/-! ### Table sets (R19, R20, R35, R51) -/

/-- R19, R20: the size exponent and bank count lie in their ranges, absent fields are zero. -/
def WindowEntry.inRange (w : WindowEntry) : Prop :=
  8 ≤ w.sizeExp ∧ w.sizeExp ≤ 24 ∧ w.bankCount ≤ 256 ∧ (w.kind = .banked → 1 ≤ w.bankCount) ∧
    w.clearAbsent = w

/-- R19, R35: every window and profile of the set is in range. -/
def TableSet.inRange (t : TableSet) : Prop :=
  (∀ i : Fin 16, t.windows[i].inRange) ∧ ∀ i : Fin 8, t.profiles[i].inRange = true

/-- R40: both sets are in range. -/
def TablesInRange (s : State) : Prop :=
  s.live.inRange ∧ s.staged.inRange

/-- R51: the live set passes every validation check at all times. -/
def LiveValid (s : State) : Prop :=
  validate s.live = none

/-! ### Bank states (R56, R67) -/

/-- R56: active and pending bank are below the bank count; R67: an AT_ONCE window has no pending bank. -/
def BankState.sound (w : WindowEntry) (k : BankState) : Prop :=
  k.active.toNat < w.bankCount ∧ (∀ b, k.pending = some b → b.toNat < w.bankCount) ∧
    (w.policy = .atOnce → k.pending = none)

/-- R56: exactly the valid BANKED windows of the live set have bank state, and it is sound. -/
def BanksSound (s : State) : Prop :=
  ∀ i : Fin 16, (s.banks[i].isSome = s.live.windows[i].isBanked) ∧
    ∀ k, s.banks[i] = some k → k.sound s.live.windows[i]

/-! ### Fault log (R146, R147, R154) -/

/-- R146: at most 8 records; R147: the overflow flag only beside a record; R154: ALERT follows its conditions. -/
def LogSound (l : FaultLog) : Prop :=
  l.records.length ≤ logCapacity ∧ (l.overflow = true → l.records ≠ []) ∧
    l.alert = (!l.records.isEmpty && l.alertEnable)

/-! ### Write queue (R122 to R124) -/

/-- R123: the entries carry consecutive numbers from h, each as its origin too, and n follows the last. -/
def numberedFrom : Byte → List QueueEntry → Byte → Prop
  | h, [], n => h = n
  | h, e :: rest, n => e.seq = h ∧ e.txn.origin = .queue h ∧ numberedFrom (h + 1) rest n

/-- R122: at most 8 entries; R123: consecutive numbers; R124: the mark is 0..8 and at least the depth. -/
def QueueSound (q : WriteQueue) : Prop :=
  q.entries.length ≤ q.highWater ∧ q.highWater ≤ queueCapacity ∧ numberedFrom (headSeq q) q.entries q.nextSeq

/-- R138: a marker counts the removed marked entries, and the entries still waited for lead the queue, the last
of them last marked. -/
def MarkerSound (q : WriteQueue) (m : DrainMarker) : Prop :=
  m.completed + m.timedOut < m.marked ∧ m.marked ≤ queueCapacity ∧
    m.marked ≤ m.completed + m.timedOut + q.entries.length ∧
    headSeq q = m.first + BitVec.ofNat 8 (m.completed + m.timedOut) ∧
    m.last = m.first + BitVec.ofNat 8 (m.marked - 1)

/-- R138: whatever marker stands is sound. -/
def DrainSound (q : WriteQueue) : Prop :=
  ∀ m, q.marker = some m → MarkerSound q m

/-! ### Service link (R162 to R171) -/

/-- R166: the running sum is that of the frames taken; at most 60 and at most the announced payload bytes. -/
def CommandBuffer.sound (c : CommandBuffer) : Prop :=
  match c.length with
  | none => c.payload = [] ∧ c.sum = c.opcode
  | some n => n.toNat ≤ maxPayload ∧ c.payload.length ≤ n.toNat ∧ c.sum = c.opcode + n + byteSum c.payload

/-- R170: at most 60 payload bytes, and the frames sum to 0 modulo 256. -/
def Response.sound (r : Response) : Prop :=
  r.payload.length ≤ maxPayload ∧ byteSum r.frames = 0

/-- R163, R170, R171: the response under way; a selection is held over only while a frame is being sent. -/
def SendingSound (l : ServiceLink) : Prop :=
  match l.response, l.transmitter with
  | some r, .turnaround => r.sound ∧ l.heldOver = none
  | some r, .sending k b _ => r.sound ∧ k < r.frames.length ∧ b ≤ 10
  | some _, .off => False
  | none, _ => False

/-- R166, R169, R192: the command buffer of a DRAIN being executed: no payload, and the sum, with the check in it,
is 0. -/
def drainBuffer : CommandBuffer :=
  { opcode := opDrain, length := some 0, payload := [], sum := 0 }

/-- R162: what each receiver state holds. Only a DRAIN lasts in EXECUTING, and only it has a marker (R169). -/
def LinkSound (l : ServiceLink) (marker : Option DrainMarker) : Prop :=
  match l.receiver with
  | .unselected => l.command = none ∧ l.response = none ∧ l.transmitter = .off ∧ l.heldOver = none ∧
      l.gapTimer = none ∧ marker = none
  | .selected _ => l.response = none ∧ l.transmitter = .off ∧ l.heldOver = none ∧ marker = none ∧
      l.gapTimer.isSome = l.command.isSome ∧ ∀ c, l.command = some c → c.sound
  | .executing _ => l.response = none ∧ l.transmitter = .off ∧ l.heldOver = none ∧ l.gapTimer = none ∧
      marker.isSome = true ∧ l.command = some drainBuffer
  | .responding => l.command = none ∧ l.gapTimer = none ∧ marker = none ∧ SendingSound l

/-! ### Processor port, queue entries and memory port (R4, R83, R102, R103, R121) -/

/-- R83, R87: the record of a transaction not yet ended. -/
def Txn.sound (t : Txn) : Prop :=
  t.beats = planBeats t.physStart t.len t.width ∧ t.timing.inRange = true ∧ t.beatsDone < t.beats.length ∧
    (t.kind = .write → t.data.length = t.len.bytes)

/-- R83: the record is that of the presented access. -/
def Txn.isOf (t : Txn) (a : Access) : Prop :=
  t.kind = a.kind ∧ t.len = a.len ∧ t.logicalStart = a.start ∧ t.data = a.data ∧ t.origin = .port

/-- R121, R8: an entry is a POSTED write. -/
def QueueEntry.sound (e : QueueEntry) : Prop :=
  e.txn.sound ∧ isPosted e.txn = true

/-- R121: an entry that has not been granted. -/
def QueueEntry.untouched (e : QueueEntry) : Prop :=
  e.service = .waiting ∧ e.txn.beatsDone = 0

/-- R132, R133: nothing in the queue stands before a CARRIED access. -/
def NothingBefore (t : Txn) (entries : List QueueEntry) : Prop :=
  isPosted t = false ∧ (t.order = .relaxed → anyOverlap entries t = false) ∧ (t.order = .ordered → entries = [])

/-- R4, R9, R11: a wait condition holds for as long as its reason does. -/
def WaitSound (t : Txn) (entries : List QueueEntry) : Wait → Prop
  | .space => isPosted t = true ∧ entries.length = queueCapacity
  | .overlap => isPosted t = false ∧ t.order = .relaxed ∧ anyOverlap entries t = true
  | .empty => isPosted t = false ∧ t.order = .ordered ∧ entries ≠ []
  | .grant => NothingBefore t entries

/-- R4, R95: what PP holds in each of its states. -/
def PortSound (pp : PortState) (entries : List QueueEntry) : Prop :=
  match pp with
  | .idle => True
  | .held a t w => t.sound ∧ t.isOf a ∧ t.beatsDone = 0 ∧ WaitSound t entries w
  | .active a t collected => t.sound ∧ t.isOf a ∧ NothingBefore t entries ∧
      collected.length = (if t.kind = .write then 0 else t.len.bytes)

/-- PP is not ACTIVE. -/
def PortState.notActive : PortState → Prop
  | .idle => True
  | .held _ _ _ => True
  | .active _ _ _ => False

/-- R102, R104 to R107: the counts of the phase, and a beat that has not ended has no outcome. -/
def CountsSound (m : MemPort) : Prop :=
  match m.phase with
  | .idle => True
  | .setup => 1 ≤ m.phaseCount ∧ m.phaseCount ≤ m.timing.setup ∧ m.outcome = .none
  | .strobe => 1 ≤ m.strobeCount ∧ m.strobeCount ≤ m.timing.strobe ∧ m.phaseCount = m.strobeCount ∧
      m.outcome = .none
  | .readyWait => m.timing.strobe < m.strobeCount ∧ m.strobeCount ≤ m.timing.limit ∧
      m.timing.mode = .ready ∧ m.outcome = .none
  | .recovery => 1 ≤ m.phaseCount ∧ m.phaseCount ≤ m.timing.recovery ∧ m.outcome ≠ .none

/-- R100, R101, R104 to R109, R112: the outputs of each phase, given the beat in progress. -/
def PinsSound (m : MemPort) (beat : Option (Txn × Beat)) : Prop :=
  match m.phase with
  | .idle => m.pins = m.pins.released
  | .recovery => m.pins = m.pins.released
  | .setup => ∀ t b, beat = some (t, b) → m.pins = setupPins t b
  | .strobe => ∀ t b, beat = some (t, b) → m.pins = (setupPins t b).withStrobe t.kind
  | .readyWait => ∀ t b, beat = some (t, b) → m.pins = (setupPins t b).withStrobe t.kind

/-- R102, R103: the memory port performs beat beatIndex of t, with t's timing. -/
def MemPort.performs (m : MemPort) (t : Txn) : Prop :=
  m.beatIndex = t.beatsDone ∧ m.timing = t.timing

/-- R103: the beat just reported complete was not t's last: t has one more beat done and another to come. -/
def MemPort.hasPerformed (m : MemPort) (t : Txn) : Prop :=
  m.outcome = .complete ∧ m.beatIndex + 1 = t.beatsDone ∧ m.timing = t.timing

/-- What the memory port requires of the transaction it is on: the beat in progress is its next, or, in
RECOVERY, the beat ended was the one before its next. -/
def MemPort.isOn (m : MemPort) (t : Txn) : Prop :=
  match m.phase with
  | .idle => False
  | .setup => m.performs t
  | .strobe => m.performs t
  | .readyWait => m.performs t
  | .recovery => m.hasPerformed t

/-- R118: the transaction has ended and its last RECOVERY runs. -/
def MemPort.isLeaving (m : MemPort) : Prop :=
  m.phase = .recovery

/-- R103, R114, R117, R121: who owns the memory port. IDLE: the queue is empty and PP holds nothing. PORT: the
ACTIVE transaction, or an ended one in its last RECOVERY; no entry is in service. QUEUE: the head alone is in
service, or has left and its last RECOVERY runs; PP is not ACTIVE. -/
def OwnerSound (s : State) : Prop :=
  match s.mp.current with
  | none => s.mp.phase = .idle ∧ s.pp = .idle ∧ s.wq.entries = []
  | some .port => (∀ e ∈ s.wq.entries, e.untouched) ∧
      ((∃ a t collected, s.pp = .active a t collected ∧ s.mp.isOn t) ∨ (s.pp.notActive ∧ s.mp.isLeaving))
  | some (.queue n) => s.pp.notActive ∧
      ((∃ e rest, s.wq.entries = e :: rest ∧ e.service = .inService ∧ e.seq = n ∧ s.mp.isOn e.txn ∧
          ∀ f ∈ rest, f.untouched) ∨
        ((∀ e ∈ s.wq.entries, e.untouched) ∧ s.mp.isLeaving))

/-- PP, WQ and MP together. -/
def PortsSound (s : State) : Prop :=
  (∀ e ∈ s.wq.entries, e.sound) ∧ PortSound s.pp s.wq.entries ∧ OwnerSound s

/-- The memory port's counts and outputs. -/
def BeatSound (s : State) : Prop :=
  CountsSound s.mp ∧ PinsSound s.mp (currentBeat s)

/-! ### RESET held (R16, R120, R141, R156, R175) -/

/-- While RESET is held no access, entry, beat, record or conversation is under way. -/
def HeldSound (s : State) : Prop :=
  s.resetHeld = true → s.pp = .idle ∧ s.wq = resetQueue ∧ s.mp = resetPort ∧ s.fl = resetLog ∧ s.banks = noBanks ∧
    s.sl.receiver = .unselected ∧ s.sl.transmitter = .off ∧ s.sl.gapTimer = none

/-- Every invariant. -/
def Sound (s : State) : Prop :=
  TablesInRange s ∧ LiveValid s ∧ BanksSound s ∧ LogSound s.fl ∧ QueueSound s.wq ∧ DrainSound s.wq ∧
    LinkSound s.sl s.wq.marker ∧ PortsSound s ∧ BeatSound s ∧ HeldSound s

end Sys2Proof.Machine
end

