-- ==== Sys2Proof/Certificates/Slice0/Obligations.lean ====
section
/-! DEFINITION. The statements for the provers, with the few words they are written in. -/

namespace Sys2Proof.Machine

/-! ### Words of the statements -/

/-- RESET is not held and a falling edge has begun a frame (R159). -/
def InFrame (s : State) : Prop :=
  s.resetHeld = false ∧ s.sl.line = .sampling

/-- The link after a frame that has no effect above the frame receiver: HUNT after a high stop bit, WAIT_HIGH
after a low one (R159). -/
def ServiceLink.heard (l : ServiceLink) (stop : Bool) : ServiceLink :=
  { l with line := if stop then .hunt else .waitHigh, linkIn := stop, rxTime := 0, samples := [] }

/-- The command op with payload p stands complete in the buffer under selection sel, and the frame being
received is its check frame (R166). -/
def Collected (s : State) (sel : Selection) (op : Byte) (p : List Byte) : Prop :=
  InFrame s ∧ s.sl.receiver = .selected sel ∧ p.length ≤ 60 ∧
    s.sl.command = some { opcode := op, length := some (BitVec.ofNat 8 p.length), payload := p,
                          sum := op + BitVec.ofNat 8 p.length + byteSum p }

/-- The link after the execution of a command ends at its check frame (R169, R170, R172): an addressed unit is
in turnaround with the response of this status and payload, a broadcast one waits for an opcode. -/
def ServiceLink.answered (l : ServiceLink) (sel : Selection) (status : Status) (p : List Byte) : ServiceLink :=
  match sel with
  | .addressed =>
    { l.heard true with receiver := .responding, command := none, response := some (makeResponse status p),
                        transmitter := .turnaround, gapTimer := none, sinceCommand := 0 }
  | .broadcast =>
    { l.heard true with receiver := .selected .broadcast, command := none, gapTimer := none, sinceCommand := 0 }

/-- The link after a command is refused at its length frame or its check frame (R166, R167): an addressed unit is
in turnaround with the response of this status, a broadcast one is in the given receiver state. -/
def ServiceLink.turnedAway (l : ServiceLink) (sel : Selection) (status : Status) (next : Receiver) : ServiceLink :=
  match sel with
  | .addressed => l.answered .addressed status []
  | .broadcast => { l.heard true with receiver := next, command := none, gapTimer := none }

/-- The marker after the removal of a marked entry (R138). -/
def DrainMarker.counted (m : DrainMarker) (cause : RemovalCause) : DrainMarker :=
  match cause with
  | .completed => { m with completed := m.completed + 1 }
  | .timedOut => { m with timedOut := m.timedOut + 1 }

/-- The number of beats R92 gives. -/
def beatCount (p : PAddr) (l : Len) (width : Width) : Nat :=
  match width, l with
  | .w8, l => l.bytes
  | .w16, .one => 1
  | .w16, .two => if p.toNat % 2 = 0 then 1 else 2
  | .w16, .four => if p.toNat % 2 = 0 then 2 else 3

/-- What a beat carries: operand position, physical address, and whether on lane 1 (R88). -/
def Beat.carries (b : Beat) : List (Nat × Nat × Bool) :=
  match b.lanes with
  | .lane0 i => [(i, b.addr.toNat, false)]
  | .lane1 i => [(i, b.addr.toNat, true)]
  | .both i j => [(i, b.addr.toNat, false), (j, b.addr.toNat + 1, true)]

/-- The state of the part with the answer of a service command given and nothing else changed. -/
def State.answered (s : State) (sel : Selection) (status : Status) (p : List Byte) : State :=
  { s with sl := s.sl.answered sel status p }

/-- The queue without the marker of a DRAIN in EXECUTING, which is abandoned (R139, R163, R173). -/
def State.withoutDrain (s : State) : WriteQueue :=
  match s.sl.receiver with
  | .executing _ => { s.wq with marker := none }
  | .unselected => s.wq
  | .selected _ => s.wq
  | .responding => s.wq

/-- A four-lane operand of zeros (R2). -/
def zeroLanes : Vector Byte 4 := #v[0, 0, 0, 0]

/-- R21: a logical byte lies in the window's range, base to base + 2^e − 1. -/
abbrev WindowEntry.holds (w : WindowEntry) (a : Nat) : Prop :=
  w.logicalBase.toNat ≤ a ∧ a < w.logicalBase.toNat + 2 ^ w.sizeExp

/-- R28: each kind of access needs its own right. -/
def Rights.include (r : Rights) (k : AccessKind) : Prop :=
  (k = .fetch ∧ r.fetch = true) ∨ (k = .read ∧ r.read = true) ∨ (k = .write ∧ r.write = true)

/-- R46 to R48: a window or trigger passes the check of each reason. -/
def WindowEntry.passesLogicalAlign (w : WindowEntry) : Prop :=
  w.logicalBase.toNat % 2 ^ w.sizeExp = 0
def WindowEntry.passesPhysicalAlign (w : WindowEntry) : Prop :=
  w.physBase.toNat % 2 ^ w.sizeExp = 0
def WindowEntry.passesPhysicalTop (w : WindowEntry) : Prop :=
  (w.kind = .plain → w.physBase.toNat + 2 ^ w.sizeExp ≤ 2 ^ 26) ∧
    (w.kind = .banked → w.physBase.toNat + w.bankCount * 2 ^ w.sizeExp ≤ 2 ^ 26)
def WindowEntry.passesInitialBank (w : WindowEntry) : Prop :=
  w.kind = .banked → w.initialBank.toNat < w.bankCount
def WindowEntry.passesLandingRange (w : WindowEntry) : Prop :=
  w.kind = .banked → w.policy = .atLanding → w.landing.toNat < 2 ^ w.sizeExp
def TableSet.passesTarget (t : TableSet) (i : Fin 4) : Prop :=
  t.windows[t.triggers[i].target].valid = true ∧ t.windows[t.triggers[i].target].kind = .banked
def TableSet.passesSelf (t : TableSet) (i : Fin 4) : Prop :=
  ¬ t.windows[t.triggers[i].target].holds t.triggers[i].addr.toNat
def TableSet.passesDuplicate (t : TableSet) (i : Fin 4) : Prop :=
  ∀ j : Fin 4, j < i → t.triggers[j].enabled = true → t.triggers[j].addr ≠ t.triggers[i].addr

/-- R60, R62: the enabled triggers a WRITE meets, each with its candidate byte, in ascending address order. -/
def candidates (t : TableSet) (a : Access) : List (Fin 4 × Byte) :=
  (List.range a.data.length).flatMap fun i =>
    ((List.finRange 4).filter fun j =>
      t.triggers[j].enabled && decide (t.triggers[j].addr.toNat = a.start.toNat + i)).map fun j => (j, a.data.getD i 0)

/-- R61: a candidate is below the bank count of its trigger's target. -/
def inCount (t : TableSet) (c : Fin 4 × Byte) : Bool :=
  decide (c.2.toNat < t.windows[t.triggers[c.1].target].bankCount)

/-- R202: the code of an access kind. -/
def kindCode : AccessKind → Nat
  | .fetch => 0
  | .read => 1
  | .write => 2

/-- R200: bytes 3 to 6 of a fault record. -/
def accessBytes (k : AccessKind) (n : Len) (a : LAddr) : List Byte :=
  [BitVec.ofNat 8 (kindCode k + 16 * n.bytes), a.extractLsb' 0 8, a.extractLsb' 8 8, a.extractLsb' 16 8]

/-- A physical address as four bytes, least significant first (section 10.8). -/
def physBytes (p : PAddr) : List Byte :=
  [p.extractLsb' 0 8, p.extractLsb' 8 8, p.extractLsb' 16 8, (p.zeroExtend 32).extractLsb' 24 8]

/-- The record R83 gives an access a accepted in window w of the live set at physical start p. -/
def recordOf (s : State) (w : Fin 16) (a : Access) (p : PAddr) : Txn :=
  { kind := a.kind, origin := .port, window := w, logicalStart := a.start, select := s.live.windows[w].select,
    physStart := p, len := a.len, width := s.live.windows[w].width,
    timing := s.live.profiles[s.live.windows[w].profile], order := s.live.windows[w].order, data := a.data,
    beats := planBeats p a.len s.live.windows[w].width, beatsDone := 0 }

/-- PP can take the arrival of a. -/
def MayArrive (s : State) (a : Access) : Prop :=
  s.resetHeld = false ∧ s.pp = .idle ∧ a.wellFormed = true

/-- The state after steps 1 and 2 of R5: the fetch's commits are made, the answer is not given. -/
def arrived (s : State) (a : Access) : State :=
  { s with banks := banksAtArrival s a (decodeAccess s.live a), answer := none }

/-- The phase a beat starts in: SETUP, or STROBE when setup is 0 (R104). -/
def startPhase (p : Profile) : Phase :=
  if p.setup = 0 then .strobe else .setup

/-- The memory port in the first period of beat k of t, granted to o (R103, R104). -/
def BeginsBeat (m : MemPort) (o : Origin) (t : Txn) (k : Nat) : Prop :=
  m.current = some o ∧ m.timing = t.timing ∧ m.beatIndex = k ∧ m.phase = startPhase t.timing ∧
    m.phaseCount = 1 ∧ m.outcome = .none ∧ (m.phase = .strobe → m.strobeCount = 1) ∧
    ∀ b, t.beats[k]? = some b →
      m.pins.addr = b.addr ∧ m.pins.sel = some t.select ∧ m.pins.le0 = b.lanes.uses0 ∧
      m.pins.le1 = b.lanes.uses1 ∧
      m.pins.readStrobe = decide (m.phase = .strobe ∧ t.kind ≠ .write) ∧
      m.pins.writeStrobe = decide (m.phase = .strobe ∧ t.kind = .write) ∧
      m.pins.data = (if t.kind = .write then some (b.lanes.drive t.data) else none)

/-- The memory port in the first period of a RECOVERY, or the boundary of one of length 0 (R105, R110, R112). -/
def MemPort.ended (m : MemPort) (outcome : BeatOutcome) : MemPort :=
  { m with phase := .recovery, phaseCount := 1, outcome := outcome,
           pins := { m.pins with sel := none, readStrobe := false, writeStrobe := false, le0 := false,
                                 le1 := false, data := none } }

/-- The strobe of a beat of the PP transaction is under way (R102). -/
def PortBeat (s : State) (a : Access) (t : Txn) (collected : List (Option Byte)) (b : Beat) : Prop :=
  (s.mp.phase = .strobe ∨ s.mp.phase = .readyWait) ∧ s.mp.current = some .port ∧ s.pp = .active a t collected ∧
    t.beats[s.mp.beatIndex]? = some b

/-- The strobe of a beat of the queue head e is under way (R102). -/
def QueueBeat (s : State) (e : QueueEntry) (rest : List QueueEntry) (b : Beat) : Prop :=
  (s.mp.phase = .strobe ∨ s.mp.phase = .readyWait) ∧ s.mp.current = some (.queue e.seq) ∧
    s.wq.entries = e :: rest ∧ e.service = .inService ∧ e.txn.beats[s.mp.beatIndex]? = some b

/-- R93 to R95: of the operand bytes a beat carries, each stands on its lane, driven from the write data or placed
into the collected operand; an unused lane is driven 0 and not enabled, and no other position is filled. -/
def Beat.movesItsBytes (b : Beat) : Prop :=
  (∀ data : List Byte, ∀ c ∈ b.carries,
    (if c.2.2 then (b.lanes.drive data).2 else (b.lanes.drive data).1) = data.getD c.1 0) ∧
  (b.lanes.uses0 = true ↔ ∃ c ∈ b.carries, c.2.2 = false) ∧
  (b.lanes.uses1 = true ↔ ∃ c ∈ b.carries, c.2.2 = true) ∧
  (∀ data : List Byte, (b.lanes.uses0 = false → (b.lanes.drive data).1 = 0) ∧
    (b.lanes.uses1 = false → (b.lanes.drive data).2 = 0)) ∧
  (∀ (x y : Byte) (collected : List (Option Byte)),
    (b.lanes.fill x y collected).length = collected.length ∧
    (∀ c ∈ b.carries, c.1 < collected.length →
      (b.lanes.fill x y collected)[c.1]? = some (some (if c.2.2 then y else x))) ∧
    (∀ i, (∀ c ∈ b.carries, c.1 ≠ i) → (b.lanes.fill x y collected)[i]? = collected[i]?))

/-- n part-clock periods of the memory port alone, with MRDY and the lanes of each. -/
def memoryPeriods (mrdy : Nat → Bool) (lane0 lane1 : Nat → Byte) : Nat → State → Result
  | 0, s => .next s
  | n + 1, s => andThen (memoryPeriods mrdy lane0 lane1 n s) (memoryPeriod (mrdy n) (lane0 n) (lane1 n))

/-- The service commands with their opcodes and payload lengths (R176, R201). -/
def serviceRows : List (Instr × Byte × Nat) :=
  [(.identify, 0x01, 0), (.readWindow, 0x10, 2), (.writeWindow, 0x11, 17), (.readProfile, 0x12, 2),
    (.writeProfile, 0x13, 7), (.readTrigger, 0x14, 2), (.writeTrigger, 0x15, 6), (.readGlobals, 0x16, 1),
    (.writeGlobals, 0x17, 2), (.copyLiveToStaged, 0x18, 0), (.applyTable, 0x19, 0), (.readBank, 0x20, 1),
    (.setBankFollow, 0x21, 3), (.setBankNow, 0x21, 3), (.cancelPending, 0x22, 1), (.readFaults, 0x30, 0),
    (.removeFaults, 0x31, 1), (.setAlert, 0x32, 1), (.readQueue, 0x40, 1), (.drain, 0x41, 0),
    (.readLinkStatus, 0x50, 1)]

/-- The link's timers one part-clock period on (R158, R168, R170, R171): the receiver's time in a frame, the gap
timer while it runs, the time from the command's last frame while it is executed or in turnaround, the time in the
bit being sent. -/
def ServiceLink.ticked (l : ServiceLink) : ServiceLink :=
  { l with
    rxTime := if l.line = .sampling then l.rxTime + 1 else l.rxTime
    gapTimer := l.gapTimer.map fun n => n + 1
    sinceCommand := match l.receiver, l.transmitter with
      | .executing _, _ => l.sinceCommand + 1
      | .responding, .turnaround => l.sinceCommand + 1
      | _, _ => l.sinceCommand
    transmitter := match l.transmitter with
      | .sending k b p => .sending k b (p + 1)
      | .turnaround => .turnaround
      | .off => .off }

/-- The gap timeout has not been reached, or a frame has begun (R168). -/
def NoGapTimeout (s : State) : Prop :=
  s.sl.line = .sampling ∨ ∀ n, s.sl.gapTimer = some n → n < 40 * (32 * 2 ^ s.straps.rateValue)

/-- R168: the link after a gap timeout. -/
def ServiceLink.gapTimedOut (l : ServiceLink) : ServiceLink :=
  { l with
    receiver := .unselected, command := none, gapTimer := none
    counters := { l.counters with gaps := if l.counters.gaps = 255 then 255 else l.counters.gaps + 1 } }

/-- R159: bit period k + 1/2, or one sixteenth of a bit period beside it, falls t part-clock periods after time 0. -/
def SampledAt (st : Straps) (t : Nat) : Prop :=
  ∃ k j, 7 ≤ j ∧ j ≤ 9 ∧ t * 16 = (16 * k + j) * (32 * 2 ^ st.rateValue)

/-- Bank state of window w after a change, the others as before. -/
def banksWith (b : Banks) (w : Fin 16) (k : BankState) : Banks :=
  b.set w (some k)

end Sys2Proof.Machine

section
open Sys2Proof Sys2Proof.Machine

/-! ### One step -/

/-- A step with a command in front is that command's execution on the state with the queue's rest. -/
def Obligations.StepRunsFrontCommand : Prop :=
  ∀ (c : Instr) (rest : List Instr) (s : State), step (s.setPending (c :: rest)) = exec c (s.setPending rest)

/-- A step with no command waiting is one part-clock period (the model's choice, log 3): while RESET is held
nothing but the model's period counter moves; otherwise the part runs on some inputs (log 5): the link's timers move
on by one period, then memory port and link act, in either order, and receiver and transmitter in either order
(log 12). -/
def Obligations.EmptyQueueIsOnePeriod : Prop :=
  (∀ s : State, s.pending = [] →
    (s.resetHeld = true → step s = .next { s with period := s.period + 1 }) ∧
    (s.resetHeld = false → ∃ portFirst receiverFirst mrdy level lane0 lane1,
      step s = runPeriod portFirst receiverFirst mrdy level lane0 lane1 s)) ∧
  (∀ (mrdy level : Bool) (lane0 lane1 : Byte) (s u : State),
    u = { s with period := s.period + 1, sl := s.sl.ticked } →
    (runPeriod true true mrdy level lane0 lane1 s =
      andThen (memoryPeriod mrdy lane0 lane1 u) fun t => .next (transmitterPeriod (receiverPeriod level t))) ∧
    (runPeriod true false mrdy level lane0 lane1 s =
      andThen (memoryPeriod mrdy lane0 lane1 u) fun t => .next (receiverPeriod level (transmitterPeriod t))) ∧
    (runPeriod false true mrdy level lane0 lane1 s =
      memoryPeriod mrdy lane0 lane1 (transmitterPeriod (receiverPeriod level u))) ∧
    (runPeriod false false mrdy level lane0 lane1 s =
      memoryPeriod mrdy lane0 lane1 (receiverPeriod level (transmitterPeriod u))))

/-! ### RESET -/

/-- RESET idles every block; its release samples the straps and loads the boot set, whose every value is given, with
queue, memory port, fault log and link as RESET left them; a raised request is then an arrival. That the model's period counter and command queue are kept, and the last sampled straps while RESET is
held, is the model's choice (log 5, 8). -/
def Obligations.ResetAndRelease : Prop :=
  (∀ s : State, ∃ t, exec .reset s = .next t ∧ t.resetHeld = true ∧ t.pending = s.pending ∧ t.period = s.period ∧
    t.straps = s.straps ∧ t.banks = Vector.replicate 16 none ∧ t.pp = .idle ∧
    t.wq = { entries := [], nextSeq := 0, highWater := 0, marker := none } ∧
    t.mp.phase = .idle ∧ t.mp.current = none ∧
    t.mp.pins = { addr := 0, sel := none, readStrobe := false, writeStrobe := false, le0 := false, le1 := false,
                  data := none } ∧
    t.fl = { records := [], overflow := false, nextSeq := 0, alertEnable := true, alert := false } ∧
    t.sl.receiver = .unselected ∧ t.sl.command = none ∧ t.sl.response = none ∧ t.sl.transmitter = .off ∧
    t.sl.heldOver = none ∧ t.sl.gapTimer = none ∧ linkOutput t.sl = true) ∧
  (∀ (s : State) (p : StrapLevels) (high : Bool), s.resetHeld = true →
    ∃ t, exec (.resetRelease p high none) s = .next t ∧ t.resetHeld = false ∧ t.pending = s.pending ∧
      t.straps.unitAddress = p.unit ∧ t.straps.rateValue = p.rate1.toNat + 2 * p.rate2.toNat ∧
      t.straps.bootWidth = (if p.bootWidth then .w16 else .w8) ∧
      t.live = bootSet (if p.bootWidth then .w16 else .w8) ∧ t.staged = t.live ∧
      t.banks = Vector.replicate 16 none ∧ t.pp = .idle ∧
      t.wq = { entries := [], nextSeq := 0, highWater := 0, marker := none } ∧
      t.mp.phase = .idle ∧ t.mp.current = none ∧
      t.mp.pins = { addr := 0, sel := none, readStrobe := false, writeStrobe := false, le0 := false, le1 := false,
                    data := none } ∧
      t.fl = { records := [], overflow := false, nextSeq := 0, alertEnable := true, alert := false } ∧
      t.sl.receiver = .unselected ∧ t.sl.command = none ∧ t.sl.response = none ∧ t.sl.transmitter = .off ∧
      t.sl.heldOver = none ∧ t.sl.gapTimer = none ∧ linkOutput t.sl = true ∧
      t.sl.line = (if high then .hunt else .waitHigh) ∧
      t.sl.counters = { framing := 0, badChecks := 0, gaps := 0, ignored := 0, breaks := 0 } ∧
      ∀ a : Access, a.wellFormed = true →
        exec (.resetRelease p high (some a)) s = exec (.accessArrival a) t) ∧
  (∀ (s : State) (p : StrapLevels) (high : Bool) (a : Access), s.resetHeld = true → a.wellFormed = true →
    a.start.toNat + a.len.bytes ≤ 2 ^ 24 →
    ∃ t, exec (.resetRelease p high (some a)) s = .next t ∧
      ∃ x collected, t.pp = .active a x collected ∧ x.select = 0 ∧ x.physStart.toNat = a.start.toNat ∧
        BeginsBeat t.mp .port x 0) ∧
  (∀ width : Width,
    (bootSet width).windows[0] =
      { valid := true, logicalBase := 0, sizeExp := 24, kind := .plain, select := 0, physBase := 0, width := width,
        profile := 0, rights := { read := true, write := true, fetch := true }, order := .ordered,
        bankCount := 0, initialBank := 0, policy := .atOnce, landing := 0 } ∧
    (∀ i : Fin 16, i ≠ 0 → (bootSet width).windows[i] =
      { valid := false, logicalBase := 0, sizeExp := 8, kind := .plain, select := 0, physBase := 0, width := .w8,
        profile := 0, rights := { read := false, write := false, fetch := false }, order := .relaxed,
        bankCount := 0, initialBank := 0, policy := .atOnce, landing := 0 }) ∧
    (∀ i : Fin 8, (bootSet width).profiles[i] =
      { setup := 3, strobe := 16, mode := .fixed, limit := 1024, recovery := 7 }) ∧
    (∀ i : Fin 4, (bootSet width).triggers[i] = { enabled := false, addr := 0, target := 0 }) ∧
    (bootSet width).globals = { missPolicy := .error, fillByte := 0xFF })

/-! ### Decoding, translation, commits and captures -/

/-- R24, whole: the access that runs past the top of logical space is a STRADDLE without a hit window, whatever
the windows hold; only a 2-byte access at the last address and a 4-byte one at the last three can. -/
def Obligations.AccessPastTopStraddles : Prop :=
  ∀ (t : TableSet) (a : Access),
    (0xFFFFFF < a.start.toNat + a.len.bytes - 1 → decodeAccess t a = .straddle none) ∧
    (decodeAccess t a = .straddle none → 0xFFFFFF < a.start.toNat + a.len.bytes - 1) ∧
    (0xFFFFFF < a.start.toNat + a.len.bytes - 1 ↔
      (a.len = .two ∧ a.start = 0xFFFFFF) ∨
        (a.len = .four ∧ (a.start = 0xFFFFFD ∨ a.start = 0xFFFFFE ∨ a.start = 0xFFFFFF)))

/-- R21, R25: the hit window is the valid live window of lowest index whose range contains the start byte. -/
def Obligations.LowestWindowContainingStartIsHit : Prop :=
  ∀ (t : TableSet) (start : LAddr) (w : Fin 16),
    hitWindow t start = some w ↔
      (t.windows[w].valid = true ∧ t.windows[w].holds start.toNat) ∧
        ∀ v : Fin 16, v < w → ¬ (t.windows[v].valid = true ∧ t.windows[v].holds start.toNat)

/-- R21, R23, R26 to R28: for an access that ends within logical space, the second, third and fourth check: MISS when
no valid window holds the start byte, STRADDLE when the hit window does not hold the last byte, RIGHTS when its rights
lack the right of the access's kind. -/
def Obligations.DecodingChecksInOrder : Prop :=
  ∀ (t : TableSet) (a : Access), a.start.toNat + a.len.bytes ≤ 2 ^ 24 →
    (decodeAccess t a = .miss ↔
      ∀ v : Fin 16, ¬ (t.windows[v].valid = true ∧ t.windows[v].holds a.start.toNat)) ∧
    ∀ w, hitWindow t a.start = some w →
      (¬ t.windows[w].holds (a.start.toNat + a.len.bytes - 1) → decodeAccess t a = .straddle (some w)) ∧
      (t.windows[w].holds (a.start.toNat + a.len.bytes - 1) →
        ¬ t.windows[w].rights.include a.kind → decodeAccess t a = .rights w) ∧
      (t.windows[w].holds (a.start.toNat + a.len.bytes - 1) →
        t.windows[w].rights.include a.kind → decodeAccess t a = .accepted w)

/-- R22, R32, R58: the physical start of an accepted access, and every physical byte lies within the select. The
invariants rule out sets that APPLY_TABLE refuses. -/
def Obligations.TranslationStaysInTheSelect : Prop :=
  ∀ (s : State) (a : Access) (w : Fin 16), LiveValid s → BanksSound s → decodeAccess s.live a = .accepted w →
    (s.live.windows[w].kind = .plain → ∃ p, physicalStart s.live s.banks w a.start = some p ∧
      p.toNat = s.live.windows[w].physBase.toNat + (a.start.toNat - s.live.windows[w].logicalBase.toNat) ∧
      p.toNat + a.len.bytes ≤ 2 ^ 26) ∧
    (s.live.windows[w].kind = .banked → ∃ p k, s.banks[w] = some k ∧
      physicalStart s.live s.banks w a.start = some p ∧
      p.toNat = s.live.windows[w].physBase.toNat + k.active.toNat * 2 ^ s.live.windows[w].sizeExp +
        (a.start.toNat - s.live.windows[w].logicalBase.toNat) ∧
      p.toNat + a.len.bytes ≤ 2 ^ 26)

/-- R59, R66 to R72: which windows an arrival commits, and what a commit does. -/
def Obligations.FetchCommitsPendingBanks : Prop :=
  ∀ (s : State) (a : Access) (w : Fin 16) (k : BankState), s.banks[w] = some k →
    (a.kind ≠ .fetch → (arrived s a).banks[w] = some k) ∧
    (k.pending = none → (arrived s a).banks[w] = some k) ∧
    (s.live.windows[w].policy = .atOnce → (arrived s a).banks[w] = some k) ∧
    (a.kind = .fetch → s.live.windows[w].policy = .onExit → ∀ b, k.pending = some b →
      (arrived s a).banks[w] = if s.live.windows[w].holds a.start.toNat then some k
        else some { active := b, pending := none }) ∧
    (a.kind = .fetch → s.live.windows[w].policy = .atLanding → ∀ b, k.pending = some b →
      (arrived s a).banks[w] =
        if decodeAccess s.live a = .accepted w ∧
            a.start.toNat = s.live.windows[w].logicalBase.toNat + s.live.windows[w].landing.toNat
        then some { active := b, pending := none } else some k)

/-- R60, R61, R63: a WRITE one of whose bytes one enabled trigger watches sets the target's bank by its policy,
or raises one BANK_RANGE; an access that no enabled trigger meets captures nothing. R62: a WRITE that meets several
takes them in ascending address order: each window keeps the last of the candidates in its range, and the refused
ones raise their faults in that order; no two enabled triggers share an address, as in every live set. -/
def Obligations.TriggerByteIsCaptured : Prop :=
  (∀ (s : State) (a : Access) (j : Fin 4) (i : Nat) (c : Byte) (k : BankState),
    a.kind = .write → a.data[i]? = some c → s.live.triggers[j].enabled = true →
    s.live.triggers[j].addr.toNat = a.start.toNat + i →
    (∀ m : Fin 4, s.live.triggers[m].enabled = true → a.start.toNat ≤ s.live.triggers[m].addr.toNat →
      s.live.triggers[m].addr.toNat < a.start.toNat + a.data.length → m = j) →
    s.banks[s.live.triggers[j].target] = some k →
    (c.toNat < s.live.windows[s.live.triggers[j].target].bankCount →
      captureWrite a s = { s with banks := (banksWith s.banks s.live.triggers[j].target
        (if s.live.windows[s.live.triggers[j].target].policy = .atOnce then { k with active := c }
          else { k with pending := some c })) }) ∧
    (s.live.windows[s.live.triggers[j].target].bankCount ≤ c.toNat →
      captureWrite a s =
        { s with fl := s.fl.raise (.bankRange s.live.triggers[j].target c j) .write a.len a.start })) ∧
  (∀ (s : State) (a : Access),
    (a.kind = .write → ∀ m : Fin 4, s.live.triggers[m].enabled = true →
      ¬ (a.start.toNat ≤ s.live.triggers[m].addr.toNat ∧
        s.live.triggers[m].addr.toNat < a.start.toNat + a.data.length)) →
    captureWrite a s = s) ∧
  (∀ (s : State) (a : Access), a.kind = .write →
    (∀ i j : Fin 4, s.live.triggers[i].enabled = true → s.live.triggers[j].enabled = true →
      s.live.triggers[i].addr = s.live.triggers[j].addr → i = j) →
    ∃ banks : Banks,
      captureWrite a s = { s with
        banks := banks
        fl := ((candidates s.live a).filter fun c => !inCount s.live c).foldl
          (fun l c => l.raise (.bankRange s.live.triggers[c.1].target c.2 c.1) .write a.len a.start) s.fl } ∧
      ∀ w : Fin 16, banks[w] =
        match ((candidates s.live a).filter fun c =>
            inCount s.live c && decide (s.live.triggers[c.1].target = w)).getLast? with
        | none => s.banks[w]
        | some c => s.banks[w].map fun k =>
            if s.live.windows[w].policy = .atOnce then { k with active := c.2 } else { k with pending := some c.2 })

/-! ### Arrivals -/

/-- R6, R7, R26, R29: a REFUSED access is answered ERROR and a FILLED one DONE with the fill byte; each raises
its fault, PP stays IDLE, and nothing but the answer, the log and the fetch's commits changes. -/
def Obligations.RefusedOrFilledAccessIsAnswered : Prop :=
  ∀ (s : State) (a : Access), MayArrive s a →
    (∀ x, decodeAccess s.live a = .straddle x →
      exec (.accessArrival a) s = .next { arrived s a with
        answer := some (.error zeroLanes), fl := s.fl.raise (.straddle x) a.kind a.len a.start }) ∧
    (∀ w, decodeAccess s.live a = .rights w →
      exec (.accessArrival a) s = .next { arrived s a with
        answer := some (.error zeroLanes), fl := s.fl.raise (.rights w) a.kind a.len a.start }) ∧
    (decodeAccess s.live a = .miss → s.live.globals.missPolicy = .error →
      exec (.accessArrival a) s = .next { arrived s a with
        answer := some (.error zeroLanes), fl := s.fl.raise .miss a.kind a.len a.start }) ∧
    (decodeAccess s.live a = .miss → s.live.globals.missPolicy = .fill →
      ∃ lanes : Vector Byte 4,
        exec (.accessArrival a) s = .next { arrived s a with
          answer := some (.done lanes), fl := s.fl.raise .miss a.kind a.len a.start } ∧
        ∀ i : Fin 4, lanes[i] =
          if a.kind ≠ .write ∧ i.val < a.len.bytes then s.live.globals.fillByte else 0)

/-- R9, R83, R84, R121 to R126: a POSTED write joins the tail and is answered DONE, granted at once when the
port is IDLE; with 8 entries present it is HELD for SPACE without an answer. Its captures are made either way. -/
def Obligations.PostedWriteJoinsTheQueue : Prop :=
  ∀ (s : State) (a : Access) (w : Fin 16) (p : PAddr), MayArrive s a → a.kind = .write →
    decodeAccess s.live a = .accepted w → s.live.windows[w].order = .relaxed →
    physicalStart s.live s.banks w a.start = some p →
    (s.wq.entries.length < 8 → s.mp.phase ≠ .idle →
      exec (.accessArrival a) s = .next { captureWrite a (arrived s a) with
        answer := some (.done zeroLanes)
        wq := { s.wq with
          entries := s.wq.entries ++ [{ seq := s.wq.nextSeq, service := .waiting,
                                        txn := { recordOf s w a p with origin := .queue s.wq.nextSeq } }]
          nextSeq := s.wq.nextSeq + 1
          highWater := max s.wq.highWater (s.wq.entries.length + 1) } }) ∧
    (s.wq.entries = [] → s.mp.phase = .idle →
      ∃ m, exec (.accessArrival a) s = .next { captureWrite a (arrived s a) with
        answer := some (.done zeroLanes)
        wq := { s.wq with
          entries := [{ seq := s.wq.nextSeq, service := .inService,
                        txn := { recordOf s w a p with origin := .queue s.wq.nextSeq } }]
          nextSeq := s.wq.nextSeq + 1
          highWater := max s.wq.highWater 1 }
        mp := m } ∧ BeginsBeat m (.queue s.wq.nextSeq) (recordOf s w a p) 0) ∧
    (s.wq.entries.length = 8 →
      exec (.accessArrival a) s = .next { captureWrite a (arrived s a) with
        pp := .held a (recordOf s w a p) .space })

/-- R8, R11, R83, R114, R115, R132, R133: a CARRIED access gets its wait condition from its order and the queue;
with the port IDLE and nothing before it its first beat starts at the arrival. -/
def Obligations.CarriedAccessStartsOrWaits : Prop :=
  ∀ (s : State) (a : Access) (w : Fin 16) (p : PAddr), MayArrive s a → decodeAccess s.live a = .accepted w →
    (a.kind ≠ .write ∨ s.live.windows[w].order = .ordered) →
    physicalStart s.live (arrived s a).banks w a.start = some p →
    (s.mp.phase = .idle → s.wq.entries = [] →
      ∃ m, exec (.accessArrival a) s = .next { captureWrite a (arrived s a) with
        pp := .active a (recordOf s w a p) (if a.kind = .write then [] else List.replicate a.len.bytes none)
        mp := m } ∧ BeginsBeat m .port (recordOf s w a p) 0) ∧
    (s.mp.phase ≠ .idle →
      exec (.accessArrival a) s = .next { captureWrite a (arrived s a) with
        pp := .held a (recordOf s w a p)
          (if s.live.windows[w].order = .ordered then (if s.wq.entries = [] then .grant else .empty)
            else if ∃ e ∈ s.wq.entries, e.txn.overlaps (recordOf s w a p) = true then .overlap else .grant) })

/-- R3, R16: a request raised while PP is HELD or ACTIVE, or while RESET is held, is not seen (log 15). -/
def Obligations.RequestToABusyPortIsNotSeen : Prop :=
  ∀ (s : State) (a : Access), a.wellFormed = true → s.pp ≠ .idle ∨ s.resetHeld = true →
    exec (.accessArrival a) s = .next s

/-! ### Beats -/

/-- R88 to R92: the beats of a transaction carry each operand byte exactly once, at its physical address and on
the lane of that address's parity for width 16 or lane 0 for width 8, and their number is as R92 gives. -/
def Obligations.BeatPlanCarriesEachByteOnce : Prop :=
  ∀ (p : PAddr) (l : Len) (width : Width), p.toNat + l.bytes ≤ 2 ^ 26 →
    (planBeats p l width).length = beatCount p l width ∧
    (planBeats p l width).flatMap Beat.carries =
      (List.range l.bytes).map fun i =>
        (i, p.toNat + i, decide (width = .w16) && decide ((p.toNat + i) % 2 = 1))

/-- R131: an entry overlaps an access when the selects agree and a physical byte lies in both. -/
def Obligations.OverlapIsASharedByte : Prop :=
  ∀ t u : Txn, t.overlaps u = true ↔
    t.select = u.select ∧ ∃ b, (t.physStart.toNat ≤ b ∧ b < t.physStart.toNat + t.len.bytes) ∧
      (u.physStart.toNat ≤ b ∧ b < u.physStart.toNat + u.len.bytes)

/-- R104, R105, R106: SETUP ends in STROBE with the strobe of the beat's kind active and every other output as
it was; a READY beat may then go to READY_WAIT with every output kept. -/
def Obligations.StrobePhasesBegin : Prop :=
  (∀ (s : State) (t : Txn) (b : Beat), s.mp.phase = .setup → currentBeat s = some (t, b) →
    exec .setupEnd s = .next { s with mp := { s.mp with
      phase := .strobe, phaseCount := 1, strobeCount := 1
      pins := { s.mp.pins with readStrobe := decide (t.kind ≠ .write), writeStrobe := decide (t.kind = .write) } } }) ∧
  (∀ s : State, s.mp.phase = .strobe → s.mp.timing.mode = .ready → s.mp.timing.strobe < s.mp.timing.limit →
    exec .readyWait s = .next { s with mp := { s.mp with
      phase := .readyWait, strobeCount := s.mp.timing.strobe + 1 } })

/-- R12, R13, R93 to R95, R108, R112: a beat of the PP transaction completes: the bytes of the used lanes fill their
operand positions; at the last beat PP answers DONE and is IDLE; MP enters RECOVERY with its outputs released, and a
RECOVERY of length 0 ends with the report (afterReport). Every planned beat moves its operand bytes, and no other,
on their lanes. -/
def Obligations.PortBeatCompletes : Prop :=
  (∀ (s : State) (a : Access) (t : Txn) (collected : List (Option Byte)) (b : Beat) (x y : Byte),
    PortBeat s a t collected b →
    (t.beatsDone + 1 ≠ t.beats.length →
      exec (.beatComplete x y) s = .next (afterReport { s with
        mp := s.mp.ended .complete
        pp := .active a { t with beatsDone := t.beatsDone + 1 }
          (if t.kind = .write then collected else b.lanes.fill x y collected) })) ∧
    (t.beatsDone + 1 = t.beats.length →
      ∃ lanes : Vector Byte 4,
        exec (.beatComplete x y) s = .next (afterReport { s with
          mp := s.mp.ended .complete, pp := .idle, answer := some (.done lanes) }) ∧
        (t.kind ≠ .write → ∀ i : Fin 4, lanes[i] =
          ((b.lanes.fill x y collected).getD i.val none).getD 0) ∧
        (t.kind = .write → collected = [] → lanes = zeroLanes))) ∧
  ∀ (p : PAddr) (l : Len) (width : Width), ∀ b ∈ planBeats p l width, b.movesItsBytes

/-- R112, R127, R128: a beat of the queue head completes: not the last, one more beat done; the last, the head
leaves (removeHead). Nothing else changes but the memory port. -/
def Obligations.QueueBeatCompletes : Prop :=
  ∀ (s : State) (e : QueueEntry) (rest : List QueueEntry) (b : Beat) (x y : Byte), QueueBeat s e rest b →
    (e.txn.beatsDone + 1 ≠ e.txn.beats.length →
      exec (.beatComplete x y) s = .next (afterReport { s with
        mp := s.mp.ended .complete
        wq := { s.wq with
          entries := { e with txn := { e.txn with beatsDone := e.txn.beatsDone + 1 } } :: rest } })) ∧
    (e.txn.beatsDone + 1 = e.txn.beats.length →
      exec (.beatComplete x y) s =
        .next (afterReport (removeHead .completed { s with mp := s.mp.ended .complete })))

/-- R14, R96, R110, R111, R129: a timeout raises TIMEOUT for the transaction in progress: PP's, with origin PORT, is
answered ERROR; the queue head, with origin QUEUE, is removed (removeHead). Nothing else changes but the memory
port. -/
def Obligations.BeatTimeoutIsAnsweredOrRemovesTheHead : Prop :=
  (∀ (s : State) (a : Access) (t : Txn) (collected : List (Option Byte)) (b : Beat),
    PortBeat s a t collected b → s.mp.timing.mode = .ready →
    (s.mp.phase = .strobe → s.mp.timing.limit ≤ s.mp.timing.strobe) →
    exec .beatTimeout s = .next (afterReport { s with
      mp := s.mp.ended .timeout, pp := .idle, answer := some (.error zeroLanes)
      fl := s.fl.raise (.timeout false t.window t.select b.addr t.beats.length t.beatsDone) t.kind t.len
        t.logicalStart })) ∧
  (∀ (s : State) (e : QueueEntry) (rest : List QueueEntry) (b : Beat),
    QueueBeat s e rest b → s.mp.timing.mode = .ready →
    (s.mp.phase = .strobe → s.mp.timing.limit ≤ s.mp.timing.strobe) →
    exec .beatTimeout s = .next (afterReport (removeHead .timedOut { s with
      mp := s.mp.ended .timeout
      fl := s.fl.raise (.timeout true e.txn.window e.txn.select b.addr e.txn.beats.length e.txn.beatsDone)
        e.txn.kind e.txn.len e.txn.logicalStart })))

/-- R103, R112, R114, R117: at the end of a RECOVERY the next beat of the same transaction starts, whatever
claims stand; when the transaction has ended, the eligible PP access goes before the queue head, the head goes
when no such access stands, and with neither the port is IDLE. A RECOVERY of length 0 ends the same way. -/
def Obligations.RecoveryEndsInNextBeatOrGrant : Prop :=
  (∀ s : State, s.mp.phase = .recovery → exec .recoveryEnd s = .next (recoveryDone s) ∧
    (s.mp.timing.recovery = 0 → afterReport s = recoveryDone s) ∧
    (s.mp.timing.recovery ≠ 0 → afterReport s = s)) ∧
  (∀ (s : State) (t : Txn) (o : Origin), s.mp.phase = .recovery → s.mp.outcome = .complete →
    s.mp.current = some o → currentTxn s = some t → t.timing = s.mp.timing →
    s.mp.beatIndex + 1 < t.beats.length →
    ∃ m, exec .recoveryEnd s = .next { s with mp := m } ∧ BeginsBeat m o t (s.mp.beatIndex + 1)) ∧
  (∀ s : State, s.mp.phase = .recovery → (s.mp.outcome = .timeout ∨ currentTxn s = none) →
    (∀ a t, s.pp = .held a t .grant → t.beatsDone = 0 → t.beats ≠ [] →
      ∃ m, exec .recoveryEnd s = .next { s with
        mp := m, pp := .active a t (if t.kind = .write then [] else List.replicate t.len.bytes none) } ∧
        BeginsBeat m .port t 0) ∧
    (∀ e rest, (∀ a t, s.pp ≠ .held a t .grant) → s.wq.entries = e :: rest → e.service = .waiting →
      e.txn.beatsDone = 0 → e.txn.beats ≠ [] →
      ∃ m, exec .recoveryEnd s = .next { s with
        mp := m, wq := { s.wq with entries := { e with service := .inService } :: rest } } ∧
        BeginsBeat m (.queue e.seq) e.txn 0) ∧
    ((∀ a t, s.pp ≠ .held a t .grant) → s.wq.entries = [] →
      exec .recoveryEnd s = .next { s with mp := { s.mp with phase := .idle, current := none } }))

/-- R10, R11, R124 to R126, R132, R133, R138, R193: all that belongs to the one removal of the queue head: a write
held for SPACE is admitted and answered; an access held for OVERLAP or EMPTY becomes eligible when nothing more
stands before it; the drain marker counts, and ends the DRAIN at its last marked entry. -/
def Obligations.RemovalAdmitsGrantsAndDrains : Prop :=
  ∀ (s : State) (e : QueueEntry) (rest : List QueueEntry) (cause : RemovalCause), s.wq.entries = e :: rest →
    ∃ pp answer entries nextSeq highWater marker sl,
      removeHead cause s = { s with pp := pp, answer := answer, wq := ⟨entries, nextSeq, highWater, marker⟩,
                                    sl := sl } ∧
      (∀ a t, s.pp = .held a t .space → pp = .idle ∧ answer = some (.done zeroLanes) ∧
        entries = rest ++ [{ seq := s.wq.nextSeq, service := .waiting,
                             txn := { t with origin := .queue s.wq.nextSeq } }] ∧
        nextSeq = s.wq.nextSeq + 1 ∧ highWater = max s.wq.highWater (rest.length + 1)) ∧
      ((∀ a t, s.pp ≠ .held a t .space) →
        answer = s.answer ∧ entries = rest ∧ nextSeq = s.wq.nextSeq ∧ highWater = s.wq.highWater) ∧
      (∀ a t, s.pp = .held a t .overlap →
        pp = .held a t (if ∃ f ∈ rest, f.txn.overlaps t = true then .overlap else .grant)) ∧
      (∀ a t, s.pp = .held a t .empty → pp = .held a t (if rest = [] then .grant else .empty)) ∧
      ((∀ a t w, s.pp = .held a t w → w = .grant) → pp = s.pp) ∧
      (s.wq.marker = none → marker = none ∧ sl = s.sl) ∧
      (∀ m, s.wq.marker = some m → e.seq ≠ m.last → (e.seq - m.first).toNat ≤ (m.last - m.first).toNat →
        sl = s.sl ∧ marker = some (m.counted cause)) ∧
      (∀ m, s.wq.marker = some m → e.seq = m.last → marker = none ∧
        (s.sl.receiver = .executing .broadcast →
          sl = { s.sl with receiver := .selected .broadcast, command := none, gapTimer := none }) ∧
        (s.sl.receiver = .executing .addressed → sl = { s.sl with
          receiver := .responding, command := none, gapTimer := none
          transmitter := (if 2 * (32 * 2 ^ s.straps.rateValue) ≤ s.sl.sinceCommand then .sending 0 0 0 else .turnaround)
          response := some (makeResponse .ok [BitVec.ofNat 8 (m.counted cause).marked,
            BitVec.ofNat 8 (m.counted cause).completed, BitVec.ofNat 8 (m.counted cause).timedOut]) }))

/-- The rows SPACE_ADMISSION, MOVE_TO_GRANT and DRAIN_COMPLETE are the report that removes the head, in the states
in which the removal admits the held write, makes the held access eligible, or ends the DRAIN (log 1). -/
def Obligations.RemovalRowsAreTheRemovingReport : Prop :=
  ∀ (s : State) (e : QueueEntry) (rest : List QueueEntry) (b : Beat) (i : Instr) (c : RemovalCause),
    QueueBeat s e rest b →
    (i = .spaceAdmission c ∧ (∃ a t, s.pp = .held a t .space)) ∨
      (i = .moveToGrant c ∧ ((∃ a t, s.pp = .held a t .overlap ∧ ∀ f ∈ rest, f.txn.overlaps t = false) ∨
        ((∃ a t, s.pp = .held a t .empty) ∧ rest = []))) ∨
      (i = .drainComplete c ∧ ∃ m, s.wq.marker = some m ∧ e.seq = m.last) →
    (c = .completed → e.txn.beatsDone + 1 = e.txn.beats.length →
      exec i s = .next (afterReport (removeHead .completed { s with mp := s.mp.ended .complete }))) ∧
    (c = .timedOut → s.mp.timing.mode = .ready →
      (s.mp.phase = .strobe → s.mp.timing.limit ≤ s.mp.timing.strobe) →
      exec i s = .next (afterReport (removeHead .timedOut { s with
        mp := s.mp.ended .timeout
        fl := s.fl.raise (.timeout true e.txn.window e.txn.select b.addr e.txn.beats.length e.txn.beatsDone)
          e.txn.kind e.txn.len e.txn.logicalStart })))

/-- R104 to R107, R110, R112, R113, by periods of the memory port: SETUP ends after setup periods and RECOVERY after
recovery periods; a FIXED strobe lasts exactly strobe periods whatever MRDY does, and its data are those on the lanes
in the last of them; a READY beat whose MRDY is first sampled high in strobe period n, from the last STROBE period to
the ready limit, ends normally in it with that period's data; one whose MRDY stays low times out at the end of the
period numbered by its ready limit, also when the limit equals strobe. -/
def Obligations.PhasesLastTheirPeriods : Prop :=
  (∀ (s : State) (mrdy : Nat → Bool) (lane0 lane1 : Nat → Byte), s.mp.phase = .strobe → s.mp.timing.mode = .fixed →
    s.mp.strobeCount = 1 → s.mp.phaseCount = 1 → 1 ≤ s.mp.timing.strobe →
    (∀ n, n < s.mp.timing.strobe →
      memoryPeriods mrdy lane0 lane1 n s =
        .next { s with mp := { s.mp with phaseCount := n + 1, strobeCount := n + 1 } }) ∧
    memoryPeriods mrdy lane0 lane1 s.mp.timing.strobe s =
      exec (.beatComplete (lane0 (s.mp.timing.strobe - 1)) (lane1 (s.mp.timing.strobe - 1)))
        { s with mp := { s.mp with phaseCount := s.mp.timing.strobe, strobeCount := s.mp.timing.strobe } }) ∧
  (∀ (s : State) (mrdy : Nat → Bool) (lane0 lane1 : Nat → Byte), s.mp.phase = .strobe → s.mp.timing.mode = .ready →
    s.mp.strobeCount = 1 → s.mp.phaseCount = 1 → 1 ≤ s.mp.timing.strobe →
    s.mp.timing.strobe < s.mp.timing.limit →
    (∀ n, s.mp.timing.strobe ≤ n + 1 → mrdy n = false) →
    (∀ n, s.mp.timing.strobe ≤ n → n < s.mp.timing.limit →
      memoryPeriods mrdy lane0 lane1 n s = .next { s with mp := { s.mp with
        phase := .readyWait, phaseCount := s.mp.timing.strobe, strobeCount := n + 1 } }) ∧
    memoryPeriods mrdy lane0 lane1 s.mp.timing.limit s = exec .beatTimeout { s with mp := { s.mp with
      phase := .readyWait, phaseCount := s.mp.timing.strobe, strobeCount := s.mp.timing.limit } }) ∧
  (∀ (s : State) (mrdy : Nat → Bool) (lane0 lane1 : Nat → Byte) (n : Nat), s.mp.phase = .strobe →
    s.mp.timing.mode = .ready → s.mp.strobeCount = 1 → s.mp.phaseCount = 1 → 1 ≤ s.mp.timing.strobe →
    s.mp.timing.strobe ≤ n → n ≤ s.mp.timing.limit →
    (∀ k, s.mp.timing.strobe ≤ k + 1 → k + 1 < n → mrdy k = false) → mrdy (n - 1) = true →
    memoryPeriods mrdy lane0 lane1 n s = exec (.beatComplete (lane0 (n - 1)) (lane1 (n - 1))) { s with mp := { s.mp with
      phase := if n = s.mp.timing.strobe then .strobe else .readyWait
      phaseCount := s.mp.timing.strobe, strobeCount := n } }) ∧
  (∀ (s : State) (mrdy : Nat → Bool) (lane0 lane1 : Nat → Byte), s.mp.phase = .strobe → s.mp.timing.mode = .ready →
    s.mp.strobeCount = 1 → s.mp.phaseCount = 1 → 1 ≤ s.mp.timing.strobe →
    s.mp.timing.limit = s.mp.timing.strobe → mrdy (s.mp.timing.strobe - 1) = false →
    memoryPeriods mrdy lane0 lane1 s.mp.timing.limit s = exec .beatTimeout { s with mp := { s.mp with
      phaseCount := s.mp.timing.strobe, strobeCount := s.mp.timing.strobe } }) ∧
  (∀ (s : State) (mrdy : Nat → Bool) (lane0 lane1 : Nat → Byte), s.mp.phase = .setup → s.mp.phaseCount = 1 →
    1 ≤ s.mp.timing.setup →
    (∀ n, n < s.mp.timing.setup →
      memoryPeriods mrdy lane0 lane1 n s = .next { s with mp := { s.mp with phaseCount := n + 1 } }) ∧
    memoryPeriods mrdy lane0 lane1 s.mp.timing.setup s =
      exec .setupEnd { s with mp := { s.mp with phaseCount := s.mp.timing.setup } }) ∧
  (∀ (s : State) (mrdy : Nat → Bool) (lane0 lane1 : Nat → Byte), s.mp.phase = .recovery → s.mp.phaseCount = 1 →
    1 ≤ s.mp.timing.recovery →
    (∀ n, n < s.mp.timing.recovery →
      memoryPeriods mrdy lane0 lane1 n s = .next { s with mp := { s.mp with phaseCount := n + 1 } }) ∧
    memoryPeriods mrdy lane0 lane1 s.mp.timing.recovery s =
      exec .recoveryEnd { s with mp := { s.mp with phaseCount := s.mp.timing.recovery } })

/-! ### The link below the commands -/

/-- R159, R160, R168, R175: a falling edge begins a frame in HUNT alone; a false start returns to HUNT with nothing
counted, and takes an overdue gap timeout with it; a high input ends WAIT_HIGH; under RESET neither edge nor level is
taken. That FALLING_EDGE in WAIT_HIGH is refused is the model's choice (log 2, log 21). In a period of the receiver
with no gap timeout due, the first low level after a high one begins a frame in HUNT, whose period is time 0, and a
high level ends WAIT_HIGH. -/
def Obligations.LineEventsMoveTheFrameReceiver : Prop :=
  (∀ s : State,
    (s.resetHeld = false → s.sl.line = .hunt →
      exec .fallingEdge s = .next { s with sl := { s.sl with
        line := .sampling, linkIn := false, rxTime := 0, samples := [] } }) ∧
    (s.resetHeld = false → s.sl.line = .sampling →
      exec .fallingEdge s = .next { s with sl := { s.sl with linkIn := false } }) ∧
    (s.resetHeld = false → s.sl.line = .waitHigh → exec .fallingEdge s = .refused .inputStillLow) ∧
    (s.resetHeld = false → s.sl.line = .waitHigh →
      exec .linkInputHigh s = .next { s with sl := s.sl.heard true }) ∧
    (s.resetHeld = false → s.sl.line ≠ .waitHigh →
      exec .linkInputHigh s = .next { s with sl := { s.sl with linkIn := true } }) ∧
    (InFrame s → s.sl.samples.length < 3 →
      (∀ n, s.sl.gapTimer = some n → n < 40 * (32 * 2 ^ s.straps.rateValue)) →
      exec .falseStart s = .next { s with sl := s.sl.heard true }) ∧
    (InFrame s → s.sl.samples.length < 3 → ∀ n, s.sl.gapTimer = some n → 40 * (32 * 2 ^ s.straps.rateValue) ≤ n →
      exec .falseStart s = .next { s with sl := (s.sl.heard true).gapTimedOut }) ∧
    (s.resetHeld = true → exec .fallingEdge s = .next s ∧ exec .linkInputHigh s = .next s)) ∧
  (∀ s : State, NoGapTimeout s →
    (s.sl.line = .hunt → s.sl.linkIn = true → receiverPeriod false s = { s with sl := { s.sl with
      line := .sampling, linkIn := false, rxTime := 0, samples := [] } }) ∧
    (∀ level, s.sl.line = .hunt → (s.sl.linkIn = false ∨ level = true) →
      receiverPeriod level s = { s with sl := { s.sl with linkIn := level } }) ∧
    (s.sl.line = .waitHigh → receiverPeriod true s = { s with sl := s.sl.heard true }) ∧
    (s.sl.line = .waitHigh → receiverPeriod false s = { s with sl := { s.sl with linkIn := false } }))

/-- R158 to R161, R168, R195: in a frame the receiver takes the level of the period at the sampling instants alone;
after the third sample a start bit decided 1 returns it to HUNT, with an overdue gap timeout taken, and after the 33rd
the frame is taken as its kind, exactly as that frame given as a command. Bits decided from samples of which at most
one of each three disagrees are the bits sent, and the frame the part sends for a byte is the data frame of that
byte. That the start bit is decided, and a false start taken, at its third sample, 9/16 of a bit period after time 0
where R160 says half a bit period, is the model's reading (log 11). LinkSound is the package's invariant. -/
def Obligations.SampledFrameIsTheFrameSent : Prop :=
  (∀ (bits : List Bool) (noise : List (Option (Fin 3))), noise.length = bits.length →
    decidedBits ((bits.zip noise).flatMap fun bn =>
      (List.finRange 3).map fun k => if bn.2 = some k then !bn.1 else bn.1) = bits) ∧
  (∀ data : Byte, frameKind ((List.range 11).map (dataFrameBit data)) = .data data) ∧
  (∀ (s : State) (level : Bool), s.sl.line = .sampling →
    (¬ SampledAt s.straps s.sl.rxTime → receiverPeriod level s = { s with sl := { s.sl with linkIn := level } }) ∧
    (SampledAt s.straps s.sl.rxTime →
      (s.sl.samples.length + 1 ≠ 3 ∨ decidedBits (s.sl.samples ++ [level]) = [false]) →
      s.sl.samples.length + 1 ≠ 33 →
      receiverPeriod level s = { s with sl := { s.sl with linkIn := level, samples := s.sl.samples ++ [level] } }) ∧
    (SampledAt s.straps s.sl.rxTime → s.sl.samples.length + 1 = 3 → decidedBits (s.sl.samples ++ [level]) = [true] →
      ((∀ n, s.sl.gapTimer = some n → n < 40 * (32 * 2 ^ s.straps.rateValue)) →
        receiverPeriod level s = { s with sl := { s.sl.heard true with linkIn := level } }) ∧
      (∀ n, s.sl.gapTimer = some n → 40 * (32 * 2 ^ s.straps.rateValue) ≤ n →
        receiverPeriod level s = { s with sl := { (s.sl.heard true).gapTimedOut with linkIn := level } }))) ∧
  (∀ (s : State) (level start mark stop : Bool) (data : Byte), InFrame s → LinkSound s.sl s.wq.marker →
    SampledAt s.straps s.sl.rxTime → s.sl.samples.length + 1 = 33 →
    decidedBits (s.sl.samples ++ [level]) = [start] ++ (List.range 8).map data.getLsbD ++ [mark, stop] →
    ∃ t, receiverPeriod level s = { t with sl := { t.sl with linkIn := level } } ∧
      (stop = true → mark = true → exec (.addressFrame data) s = .next t) ∧
      (stop = true → mark = false → exec (.dataFrame data) s = .next t) ∧
      (stop = false → mark = false → data = 0 → exec .linkBreak s = .next t) ∧
      (stop = false → mark = true ∨ data ≠ 0 → exec (.framingError mark data) s = .next t))

/-- R162, R163: an address frame ends what the unit was doing and selects it by value; while a response frame is
being sent the value is held over instead. -/
def Obligations.AddressFrameSelectsTheUnit : Prop :=
  ∀ (s : State) (v : Byte), InFrame s →
    (∀ k b p, s.sl.transmitter = .sending k b p →
      exec (.addressFrame v) s = .next { s with sl := { s.sl.heard true with heldOver := some v } }) ∧
    (s.sl.transmitter = .off ∨ s.sl.transmitter = .turnaround →
      exec (.addressFrame v) s = .next { s with
        wq := s.withoutDrain
        sl := { s.sl.heard true with
          command := none, response := none, transmitter := .off, heldOver := none, gapTimer := none
          receiver := (if v = 31 then .selected .broadcast
            else if v.toNat < 31 ∧ v.toNat = s.straps.unitAddress.toNat then .selected .addressed
            else .unselected) } })

/-- R161, R168, R173, R174: a break resets the link alone and is counted; a framing error is counted, restarts a
running gap timer and leaves the conversation; a gap timeout discards the partial command, deselects the unit and
is counted. In a period whose gap timer has reached 40 bit periods with no frame begun in an earlier one, the timeout
is taken before the receiver looks at its input. -/
def Obligations.BreakFramingErrorAndGapTimeout : Prop :=
  (∀ s : State, InFrame s →
    exec .linkBreak s = .next { s with
      wq := s.withoutDrain
      sl := { s.sl.heard false with
        receiver := .unselected, command := none, response := none, transmitter := .off, heldOver := none
        gapTimer := none
        counters := { s.sl.counters with
          breaks := if s.sl.counters.breaks = 255 then 255 else s.sl.counters.breaks + 1 } } } ∧
    ∀ (mark : Bool) (data : Byte), (mark = true ∨ data ≠ 0) →
      exec (.framingError mark data) s = .next { s with sl := { s.sl.heard false with
        gapTimer := s.sl.gapTimer.map fun _ => 0
        counters := { s.sl.counters with
          framing := if s.sl.counters.framing = 255 then 255 else s.sl.counters.framing + 1 } } }) ∧
  (∀ (s : State) (n : Nat), s.sl.gapTimer = some n → s.sl.line ≠ .sampling →
    exec .gapTimeout s = .next { s with sl := { s.sl with
      receiver := .unselected, command := none, gapTimer := none
      counters := { s.sl.counters with
        gaps := if s.sl.counters.gaps = 255 then 255 else s.sl.counters.gaps + 1 } } }) ∧
  (∀ (s : State) (n : Nat) (level : Bool), s.sl.gapTimer = some n → s.sl.line ≠ .sampling →
    40 * (32 * 2 ^ s.straps.rateValue) ≤ n →
    receiverPeriod level s = receiverPeriod level { s with sl := s.sl.gapTimedOut })

/-- R165, R166: a data frame by the receiver state: unseen in UNSELECTED, counted in EXECUTING and RESPONDING,
and in SELECTED the opcode, the length or a payload byte of the command. -/
def Obligations.DataFrameByReceiverState : Prop :=
  ∀ (s : State) (b : Byte), InFrame s →
    (s.sl.receiver = .unselected → exec (.dataFrame b) s = .next { s with sl := s.sl.heard true }) ∧
    ((∃ sel, s.sl.receiver = .executing sel) ∨ s.sl.receiver = .responding →
      exec (.dataFrame b) s = .next { s with sl := { s.sl.heard true with
        counters := { s.sl.counters with
          ignored := if s.sl.counters.ignored = 255 then 255 else s.sl.counters.ignored + 1 } } }) ∧
    ∀ sel, s.sl.receiver = .selected sel →
      (s.sl.command = none →
        exec (.dataFrame b) s = .next { s with sl := { s.sl.heard true with
          gapTimer := some 0, command := some { opcode := b, length := none, payload := [], sum := b } } }) ∧
      (∀ op sum, s.sl.command = some { opcode := op, length := none, payload := [], sum := sum } →
        b.toNat ≤ 60 →
        exec (.dataFrame b) s = .next { s with sl := { s.sl.heard true with
          gapTimer := some 0
          command := some { opcode := op, length := some b, payload := [], sum := sum + b } } }) ∧
      (∀ op n p sum, s.sl.command = some { opcode := op, length := some n, payload := p, sum := sum } →
        p.length < n.toNat →
        exec (.dataFrame b) s = .next { s with sl := { s.sl.heard true with
          gapTimer := some 0
          command := some { opcode := op, length := some n, payload := p ++ [b], sum := sum + b } } })

/-- R166: a length frame above 60 ends the collection with BAD_LENGTH when addressed and in UNSELECTED under
broadcast; nothing is counted. BAD_LENGTH is that event, and a data frame in that place is the same. -/
def Obligations.LengthAboveSixtyEndsCollection : Prop :=
  ∀ (s : State) (sel : Selection) (c : CommandBuffer) (n : Byte), InFrame s → s.sl.receiver = .selected sel →
    s.sl.command = some c → c.length = none → 60 < n.toNat →
    exec (.badLength n) s = .next { s with sl := s.sl.turnedAway sel .badLength .unselected } ∧
    exec (.dataFrame n) s = exec (.badLength n) s

/-- R167: the check frame is accepted when the byte sum is 0; one that is not accepted discards the command,
counts, and answers BAD_CHECK when addressed; it changes nothing outside the link. -/
def Obligations.CheckNotAcceptedDiscardsTheCommand : Prop :=
  ∀ (s : State) (sel : Selection) (op : Byte) (p : List Byte) (check : Byte), Collected s sel op p →
    byteSum ([op, BitVec.ofNat 8 p.length] ++ p ++ [check]) ≠ 0 →
    exec (.badCheck check) s = .next { s with sl := { s.sl.turnedAway sel .badCheck (.selected .broadcast) with
        counters := { s.sl.counters with
          badChecks := if s.sl.counters.badChecks = 255 then 255 else s.sl.counters.badChecks + 1 } } } ∧
    exec (.dataFrame check) s = exec (.badCheck check) s ∧
    (makeResponse .badCheck []).frames = [1, 0, 0xFF]

/-- R158, R163, R170, R171, R195, R196, R201: after the turnaround the frames of the response are sent in order, and they
sum to 0; the end of the last leaves the unit SELECTED ADDRESSED, and a selection held over is taken at the end of a
frame. The eight status codes are 0 to 7. In periods of the transmitter the turnaround ends 2 bit periods after the command's last frame, each of the
eleven bits of a frame lasts one bit period, and the output is the bit's level, released outside a frame. -/
def Obligations.ResponseFramesAreSentInOrder : Prop :=
  (∀ s : State, s.sl.transmitter = .turnaround →
    exec .turnaroundEnd s = .next { s with sl := { s.sl with transmitter := .sending 0 0 0 } }) ∧
  (∀ (s : State) (k b p : Nat) (r : Response), s.sl.transmitter = .sending k b p → s.sl.response = some r →
    (s.sl.heldOver = none → k + 1 < r.payload.length + 3 →
      exec .responseFrameEnd s = .next { s with sl := { s.sl with transmitter := .sending (k + 1) 0 0 } }) ∧
    (s.sl.heldOver = none → k + 1 = r.payload.length + 3 →
      exec .responseFrameEnd s = .next { s with sl := { s.sl with
        receiver := .selected .addressed, response := none, transmitter := .off } }) ∧
    (∀ v, s.sl.heldOver = some v →
      exec .responseFrameEnd s = .next { s with sl := { s.sl with
        command := none, response := none, transmitter := .off, heldOver := none, gapTimer := none
        receiver := (if v = 31 then .selected .broadcast
          else if v.toNat < 31 ∧ v.toNat = s.straps.unitAddress.toNat then .selected .addressed
          else .unselected) } })) ∧
  (∀ (status : Status) (p : List Byte),
    byteSum (makeResponse status p).frames = 0 ∧
    (makeResponse status p).frames.take (p.length + 2) = [status.code, BitVec.ofNat 8 p.length] ++ p) ∧
  (Status.ok.code = 0 ∧ Status.badCheck.code = 1 ∧ Status.badOpcode.code = 2 ∧ Status.badLength.code = 3 ∧
    Status.badIndex.code = 4 ∧ Status.badValue.code = 5 ∧ Status.invalidTable.code = 6 ∧
    Status.notBanked.code = 7) ∧
  (∀ s : State,
    (s.sl.transmitter = .off → transmitterPeriod s = s) ∧
    (s.sl.transmitter = .turnaround → s.sl.sinceCommand < 2 * (32 * 2 ^ s.straps.rateValue) →
      transmitterPeriod s = s) ∧
    (s.sl.transmitter = .turnaround → 2 * (32 * 2 ^ s.straps.rateValue) ≤ s.sl.sinceCommand →
      exec .turnaroundEnd s = .next (transmitterPeriod s)) ∧
    (∀ k b p, s.sl.transmitter = .sending k b p →
      (p < 32 * 2 ^ s.straps.rateValue → transmitterPeriod s = s) ∧
      (32 * 2 ^ s.straps.rateValue ≤ p → b < 10 →
        transmitterPeriod s = { s with sl := { s.sl with transmitter := .sending k (b + 1) 0 } }) ∧
      (32 * 2 ^ s.straps.rateValue ≤ p → b = 10 → exec .responseFrameEnd s = .next (transmitterPeriod s)))) ∧
  (∀ l : ServiceLink,
    (l.transmitter = .off ∨ l.transmitter = .turnaround → linkOutput l = true) ∧
    (∀ k b p r, l.transmitter = .sending k b p → l.response = some r → ∀ f, r.frames[k]? = some f →
      (b = 0 → linkOutput l = false) ∧ (1 ≤ b → b ≤ 8 → linkOutput l = f.getLsbD (b - 1)) ∧
      (b = 9 → linkOutput l = false) ∧ (b = 10 → linkOutput l = true)))

/-! ### Service commands -/

/-- R176: a known opcode whose length frame differs from the command's payload length is refused with BAD_LENGTH
and changes no state; an opcode that is no command's is refused with BAD_OPCODE whatever its length. That a SET_BANK of
wrong length is taken by SET_BANK_FOLLOW and SET_BANK_NOW alike is the model's reading (log 13). -/
def Obligations.WrongLengthAndUnknownOpcodeAreRefused : Prop :=
  (∀ r ∈ serviceRows, ∀ (s : State) (sel : Selection) (p : List Byte), Collected s sel r.2.1 p →
    p.length ≠ r.2.2 → exec r.1 s = .next (s.answered sel .badLength [])) ∧
  (∀ (s : State) (sel : Selection) (op : Byte) (p : List Byte), Collected s sel op p →
    (∀ r ∈ serviceRows, r.2.1 ≠ op) → exec .badOpcode s = .next (s.answered sel .badOpcode []))

/-- R167, R169, R201: the data frame that completes a command with a byte sum of 0 is the execution of the command
its opcode names, at that instant. SET_BANK is the row of its mode byte. That one of another payload length or another
mode is both of its rows is the model's reading (log 13). -/
def Obligations.AcceptedCheckExecutesTheOpcode : Prop :=
  ∀ (s : State) (sel : Selection) (op : Byte) (p : List Byte) (check : Byte), Collected s sel op p →
    byteSum ([op, BitVec.ofNat 8 p.length] ++ p ++ [check]) = 0 →
    (∀ r ∈ serviceRows, r.2.1 = op → op ≠ 0x21 → exec (.dataFrame check) s = exec r.1 s) ∧
    (op = 0x21 → ∀ w b, p = [w, b, 0] → exec (.dataFrame check) s = exec .setBankFollow s) ∧
    (op = 0x21 → ∀ w b, p = [w, b, 1] → exec (.dataFrame check) s = exec .setBankNow s) ∧
    (op = 0x21 → p.length ≠ 3 ∨ (∃ w b mode, p = [w, b, mode] ∧ 2 ≤ mode.toNat) →
      exec (.dataFrame check) s = exec .setBankFollow s ∧ exec (.dataFrame check) s = exec .setBankNow s) ∧
    ((∀ r ∈ serviceRows, r.2.1 ≠ op) → exec (.dataFrame check) s = exec .badOpcode s)

/-- R179, R197: IDENTIFY answers the part code, the revision, the straps as sampled and the capacities. -/
def Obligations.IdentifyAnswersTheSampledStraps : Prop :=
  ∀ (s : State) (sel : Selection), Collected s sel 0x01 [] →
    exec .identify s = .next (s.answered sel .ok
      [0x16, 0x24, 1, BitVec.ofNat 8 s.straps.unitAddress.toNat, BitVec.ofNat 8 s.straps.rateValue,
        if s.straps.bootWidth = .w16 then 16 else 8, 16, 8, 4, 8, 8])

/-- R180: the four reads return the named entry of the named set and change nothing; an index outside the range is
BAD_INDEX, and else a set value other than LIVE and STAGED is BAD_VALUE. -/
def Obligations.ReadsReturnTheNamedEntry : Prop :=
  ∀ (s : State) (sel : Selection) (set index : Byte),
    (Collected s sel 0x10 [set, index] → ∀ i : Fin 16, index.toNat = i.val →
      (set = 0 → exec .readWindow s = .next (s.answered sel .ok (encodeWindow s.live.windows[i]))) ∧
      (set = 1 → exec .readWindow s = .next (s.answered sel .ok (encodeWindow s.staged.windows[i]))) ∧
      (2 ≤ set.toNat → exec .readWindow s = .next (s.answered sel .badValue []))) ∧
    (Collected s sel 0x10 [set, index] → 16 ≤ index.toNat →
      exec .readWindow s = .next (s.answered sel .badIndex [])) ∧
    (Collected s sel 0x12 [set, index] → ∀ i : Fin 8, index.toNat = i.val →
      (set = 0 → exec .readProfile s = .next (s.answered sel .ok (encodeProfile s.live.profiles[i]))) ∧
      (set = 1 → exec .readProfile s = .next (s.answered sel .ok (encodeProfile s.staged.profiles[i]))) ∧
      (2 ≤ set.toNat → exec .readProfile s = .next (s.answered sel .badValue []))) ∧
    (Collected s sel 0x12 [set, index] → 8 ≤ index.toNat →
      exec .readProfile s = .next (s.answered sel .badIndex [])) ∧
    (Collected s sel 0x14 [set, index] → ∀ i : Fin 4, index.toNat = i.val →
      (set = 0 → exec .readTrigger s = .next (s.answered sel .ok (encodeTrigger s.live.triggers[i]))) ∧
      (set = 1 → exec .readTrigger s = .next (s.answered sel .ok (encodeTrigger s.staged.triggers[i]))) ∧
      (2 ≤ set.toNat → exec .readTrigger s = .next (s.answered sel .badValue []))) ∧
    (Collected s sel 0x14 [set, index] → 4 ≤ index.toNat →
      exec .readTrigger s = .next (s.answered sel .badIndex [])) ∧
    (Collected s sel 0x16 [set] →
      (set = 0 → exec .readGlobals s = .next (s.answered sel .ok (encodeGlobals s.live.globals))) ∧
      (set = 1 → exec .readGlobals s = .next (s.answered sel .ok (encodeGlobals s.staged.globals))) ∧
      (2 ≤ set.toNat → exec .readGlobals s = .next (s.answered sel .badValue [])))

/-- R41, R181, R182: a staged write that passes replaces one entry of the staged set whole and changes nothing
else outside the link; one whose index is out of range is BAD_INDEX, one whose fields are out of range BAD_VALUE. -/
def Obligations.WritesReplaceOneStagedEntry : Prop :=
  (∀ (s : State) (sel : Selection) (index : Byte) (entry : List Byte), entry.length = 16 →
    Collected s sel 0x11 (index :: entry) →
    (16 ≤ index.toNat → exec .writeWindow s = .next (s.answered sel .badIndex [])) ∧
    ∀ i : Fin 16, index.toNat = i.val →
      (decodeWindow entry = none → exec .writeWindow s = .next (s.answered sel .badValue [])) ∧
      (∀ w, decodeWindow entry = some w → exec .writeWindow s = .next { s.answered sel .ok [] with
        staged := { s.staged with windows := s.staged.windows.set i w } })) ∧
  (∀ (s : State) (sel : Selection) (index : Byte) (entry : List Byte), entry.length = 6 →
    Collected s sel 0x13 (index :: entry) →
    (8 ≤ index.toNat → exec .writeProfile s = .next (s.answered sel .badIndex [])) ∧
    ∀ i : Fin 8, index.toNat = i.val →
      (decodeProfile entry = none → exec .writeProfile s = .next (s.answered sel .badValue [])) ∧
      (∀ f, decodeProfile entry = some f → exec .writeProfile s = .next { s.answered sel .ok [] with
        staged := { s.staged with profiles := s.staged.profiles.set i f } })) ∧
  (∀ (s : State) (sel : Selection) (index : Byte) (entry : List Byte), entry.length = 5 →
    Collected s sel 0x15 (index :: entry) →
    (4 ≤ index.toNat → exec .writeTrigger s = .next (s.answered sel .badIndex [])) ∧
    ∀ i : Fin 4, index.toNat = i.val →
      (decodeTrigger entry = none → exec .writeTrigger s = .next (s.answered sel .badValue [])) ∧
      (∀ g, decodeTrigger entry = some g → exec .writeTrigger s = .next { s.answered sel .ok [] with
        staged := { s.staged with triggers := s.staged.triggers.set i g } })) ∧
  (∀ (s : State) (sel : Selection) (entry : List Byte), entry.length = 2 → Collected s sel 0x17 entry →
    (decodeGlobals entry = none → exec .writeGlobals s = .next (s.answered sel .badValue [])) ∧
    (∀ g, decodeGlobals entry = some g → exec .writeGlobals s = .next { s.answered sel .ok [] with
      staged := { s.staged with globals := g } }))

/-- R42, R43, R181, R182: which field values of an offered entry are out of range. -/
def Obligations.OfferedFieldsAreJudged : Prop :=
  (∀ a e sp l0 l1 l2 p0 p1 p2 p3 count initial policy o0 o1 o2 : Byte,
    decodeWindow [a, e, sp, l0, l1, l2, p0, p1, p2, p3, count, initial, policy, o0, o1, o2] = none ↔
      e.toNat < 8 ∨ 24 < e.toNat ∨ 7 < sp.toNat % 16 ∨ 7 < sp.toNat / 16 ∨ 3 < p3.toNat ∨
        a.getLsbD 7 = true ∨ (a.getLsbD 1 = true ∧ 2 < policy.toNat)) ∧
  (∀ setup strobe mode l0 l1 recovery : Byte,
    decodeProfile [setup, strobe, mode, l0, l1, recovery] = none ↔
      3 < setup.toNat ∨ strobe.toNat < 1 ∨ 16 < strobe.toNat ∨ 1 < mode.toNat ∨
        l0.toNat + 256 * l1.toNat < 1 ∨ 1024 < l0.toNat + 256 * l1.toNat ∨
        l0.toNat + 256 * l1.toNat < strobe.toNat ∨ 7 < recovery.toNat) ∧
  (∀ enabled a0 a1 a2 target : Byte,
    decodeTrigger [enabled, a0, a1, a2, target] = none ↔ 1 < enabled.toNat ∨ 15 < target.toNat) ∧
  (∀ policy fill : Byte, decodeGlobals [policy, fill] = none ↔ 1 < policy.toNat)

/-- R183: COPY_LIVE_TO_STAGED overwrites the whole staged set with the live set and nothing else. -/
def Obligations.CopyOverwritesTheStagedSet : Prop :=
  ∀ (s : State) (sel : Selection), Collected s sel 0x18 [] →
    exec .copyLiveToStaged s = .next { s.answered sel .ok [] with staged := s.live }

/-- R45, R50 to R53, R184, R202: APPLY_TABLE copies a staged set that passes over the live set and gives each valid
BANKED window its initial bank; one that fails changes nothing and reports the first failure, by the eight reason
codes 1 to 8. -/
def Obligations.ApplyTableIsWholeOrNothing : Prop :=
  (∀ (s : State) (sel : Selection), Collected s sel 0x19 [] →
    (validate s.staged = none → ∃ banks : Banks,
      exec .applyTable s = .next { s.answered sel .ok [] with live := s.staged, banks := banks } ∧
      ∀ i : Fin 16, banks[i] =
        if s.staged.windows[i].valid = true ∧ s.staged.windows[i].kind = .banked
        then some { active := s.staged.windows[i].initialBank, pending := none } else none) ∧
    (∀ r i, validate s.staged = some (r, .window i) →
      exec .applyTable s = .next (s.answered sel .invalidTable [r.code, 0, BitVec.ofNat 8 i.val])) ∧
    (∀ r i, validate s.staged = some (r, .trigger i) →
      exec .applyTable s = .next (s.answered sel .invalidTable [r.code, 1, BitVec.ofNat 8 i.val]))) ∧
  TableReason.logicalAlign.code = 1 ∧ TableReason.physicalAlign.code = 2 ∧ TableReason.physicalTop.code = 3 ∧
  TableReason.initialBank.code = 4 ∧ TableReason.landingRange.code = 5 ∧ TableReason.triggerTarget.code = 6 ∧
  TableReason.triggerSelf.code = 7 ∧ TableReason.triggerDuplicate.code = 8

/-- R45 to R48: the walk reports the first failing check, windows before triggers, and of one item the check of the
lowest reason code: each reason is reported exactly when its check fails and those of lower code pass. -/
def Obligations.ValidationReportsTheFirstFailure : Prop :=
  (∀ (t : TableSet) (r : TableReason) (i : Fin 16), validate t = some (r, .window i) ↔
    windowFault t.windows[i] = some r ∧ ∀ j : Fin 16, j < i → windowFault t.windows[j] = none) ∧
  (∀ (t : TableSet) (r : TableReason) (i : Fin 4), validate t = some (r, .trigger i) ↔
    (∀ j : Fin 16, windowFault t.windows[j] = none) ∧ triggerFault t i = some r ∧
      ∀ j : Fin 4, j < i → triggerFault t j = none) ∧
  (∀ w : WindowEntry, (w.valid = false → windowFault w = none) ∧ (w.valid = true →
    (windowFault w = some .logicalAlign ↔ ¬ w.passesLogicalAlign) ∧
    (windowFault w = some .physicalAlign ↔ w.passesLogicalAlign ∧ ¬ w.passesPhysicalAlign) ∧
    (windowFault w = some .physicalTop ↔ w.passesLogicalAlign ∧ w.passesPhysicalAlign ∧ ¬ w.passesPhysicalTop) ∧
    (windowFault w = some .initialBank ↔ w.passesLogicalAlign ∧ w.passesPhysicalAlign ∧ w.passesPhysicalTop ∧
      ¬ w.passesInitialBank) ∧
    (windowFault w = some .landingRange ↔ w.passesLogicalAlign ∧ w.passesPhysicalAlign ∧ w.passesPhysicalTop ∧
      w.passesInitialBank ∧ ¬ w.passesLandingRange) ∧
    (windowFault w = none ↔ w.passesLogicalAlign ∧ w.passesPhysicalAlign ∧ w.passesPhysicalTop ∧
      w.passesInitialBank ∧ w.passesLandingRange))) ∧
  (∀ (t : TableSet) (i : Fin 4), (t.triggers[i].enabled = false → triggerFault t i = none) ∧
    (t.triggers[i].enabled = true →
      (triggerFault t i = some .triggerTarget ↔ ¬ t.passesTarget i) ∧
      (triggerFault t i = some .triggerSelf ↔ t.passesTarget i ∧ ¬ t.passesSelf i) ∧
      (triggerFault t i = some .triggerDuplicate ↔ t.passesTarget i ∧ t.passesSelf i ∧ ¬ t.passesDuplicate i) ∧
      (triggerFault t i = none ↔ t.passesTarget i ∧ t.passesSelf i ∧ t.passesDuplicate i)))

/-- R73, R185: READ_BANK reports count − 1, policy, active bank and pending bank of a valid BANKED live window and
changes nothing; else NOT_BANKED, or BAD_INDEX above 15. -/
def Obligations.ReadBankReportsTheBankState : Prop :=
  ∀ (s : State) (sel : Selection) (index : Byte), Collected s sel 0x20 [index] →
    (16 ≤ index.toNat → exec .readBank s = .next (s.answered sel .badIndex [])) ∧
    ∀ w : Fin 16, index.toNat = w.val →
      (s.live.windows[w].valid = false ∨ s.live.windows[w].kind = .plain →
        exec .readBank s = .next (s.answered sel .notBanked [])) ∧
      (s.live.windows[w].valid = true → s.live.windows[w].kind = .banked → ∀ k, s.banks[w] = some k →
        exec .readBank s = .next (s.answered sel .ok
          [BitVec.ofNat 8 (s.live.windows[w].bankCount - 1), s.live.windows[w].policy.code, k.active,
            if k.pending.isSome then 1 else 0, k.pending.getD 0]))

/-- R65, R74, R75, R77, R186: SET_BANK by its mode: FOLLOW sets by the commit policy, NOW sets the active bank
and clears the pending one; and its refusals in their order. That a SET_BANK of an unknown mode is taken by both of
the table's SET_BANK rows is the model's reading (log 13). -/
def Obligations.SetBankFollowsOrMovesNow : Prop :=
  ∀ (s : State) (sel : Selection) (index bank mode : Byte), Collected s sel 0x21 [index, bank, mode] →
    (∀ i, (i = .setBankFollow ∧ mode ≠ 1) ∨ (i = .setBankNow ∧ mode ≠ 0) →
      (16 ≤ index.toNat → exec i s = .next (s.answered sel .badIndex [])) ∧
      ∀ w : Fin 16, index.toNat = w.val →
        (s.live.windows[w].valid = false ∨ s.live.windows[w].kind = .plain →
          exec i s = .next (s.answered sel .notBanked [])) ∧
        (s.live.windows[w].valid = true → s.live.windows[w].kind = .banked → 2 ≤ mode.toNat →
          exec i s = .next (s.answered sel .badValue [])) ∧
        (s.live.windows[w].valid = true → s.live.windows[w].kind = .banked →
          s.live.windows[w].bankCount ≤ bank.toNat → exec i s = .next (s.answered sel .badValue []))) ∧
    ∀ w : Fin 16, index.toNat = w.val → s.live.windows[w].valid = true → s.live.windows[w].kind = .banked →
      bank.toNat < s.live.windows[w].bankCount → ∀ k, s.banks[w] = some k →
      (mode = 0 → exec .setBankFollow s = .next { s.answered sel .ok [] with banks := (banksWith s.banks w
        (if s.live.windows[w].policy = .atOnce then { k with active := bank }
          else { k with pending := some bank })) }) ∧
      (mode = 1 → exec .setBankNow s = .next { s.answered sel .ok [] with banks := (banksWith s.banks w
        { active := bank, pending := none }) })

/-- R76, R187: CANCEL_PENDING clears the pending bank of a valid BANKED live window and nothing else, whether or
not one was present. -/
def Obligations.CancelPendingClearsThePendingBank : Prop :=
  ∀ (s : State) (sel : Selection) (index : Byte), Collected s sel 0x22 [index] →
    (16 ≤ index.toNat → exec .cancelPending s = .next (s.answered sel .badIndex [])) ∧
    ∀ w : Fin 16, index.toNat = w.val →
      (s.live.windows[w].valid = false ∨ s.live.windows[w].kind = .plain →
        exec .cancelPending s = .next (s.answered sel .notBanked [])) ∧
      (s.live.windows[w].valid = true → s.live.windows[w].kind = .banked → ∀ k, s.banks[w] = some k →
        exec .cancelPending s = .next { s.answered sel .ok [] with
          banks := banksWith s.banks w { k with pending := none } })

/-- R149, R188, R200, R202: READ_FAULTS reports the count, the overflow flag and the count oldest records, and changes
nothing; the 16 bytes of a record of each kind. -/
def Obligations.ReadFaultsReportsTheOldestRecords : Prop :=
  (∀ (s : State) (sel : Selection), Collected s sel 0x30 [] →
    exec .readFaults s = .next (s.answered sel .ok
      ([BitVec.ofNat 8 (min 3 s.fl.records.length), if s.fl.overflow then 1 else 0] ++
        ((s.fl.records.take 3).map encodeFault).flatten))) ∧
  (∀ (n : Byte) (k : AccessKind) (l : Len) (a : LAddr),
    encodeFault { seq := n, cause := .miss, access := k, len := l, start := a } =
      [n, 1, 0] ++ accessBytes k l a ++ [0xFF, 0xFF, 0, 0, 0, 0, 0, 0, 0] ∧
    encodeFault { seq := n, cause := .straddle none, access := k, len := l, start := a } =
      [n, 2, 0] ++ accessBytes k l a ++ [0xFF, 0xFF, 0, 0, 0, 0, 0, 0, 0] ∧
    (∀ w : Fin 16, encodeFault { seq := n, cause := .straddle (some w), access := k, len := l, start := a } =
      [n, 2, 0] ++ accessBytes k l a ++ [BitVec.ofNat 8 w.val, 0xFF, 0, 0, 0, 0, 0, 0, 0]) ∧
    (∀ w : Fin 16, encodeFault { seq := n, cause := .rights w, access := k, len := l, start := a } =
      [n, 3, 0] ++ accessBytes k l a ++ [BitVec.ofNat 8 w.val, 0xFF, 0, 0, 0, 0, 0, 0, 0]) ∧
    (∀ (fromQueue : Bool) (w : Fin 16) (select : Fin 8) (p : PAddr) (planned done : Nat),
      encodeFault { seq := n, cause := .timeout fromQueue w select p planned done, access := k, len := l, start := a } =
        [n, 4, if fromQueue then 1 else 0] ++ accessBytes k l a ++ [BitVec.ofNat 8 w.val, BitVec.ofNat 8 select.val]
          ++ physBytes p ++ [BitVec.ofNat 8 planned, BitVec.ofNat 8 done, 0]) ∧
    (∀ (w : Fin 16) (c : Byte) (j : Fin 4),
      encodeFault { seq := n, cause := .bankRange w c j, access := k, len := l, start := a } =
        [n, 5, 0] ++ accessBytes k l a ++ [BitVec.ofNat 8 w.val, 0xFF, 0, 0, 0, 0, BitVec.ofNat 8 j.val, 0, c]))

/-- R150, R189: REMOVE_FAULTS removes the lesser of n and the records held from the head, clears the overflow flag
of an empty log and sets ALERT; a number outside 1..8 is BAD_VALUE. -/
def Obligations.RemoveFaultsTakesFromTheHead : Prop :=
  ∀ (s : State) (sel : Selection) (n : Byte), Collected s sel 0x31 [n] →
    (n.toNat = 0 ∨ 8 < n.toNat → exec .removeFaults s = .next (s.answered sel .badValue [])) ∧
    (1 ≤ n.toNat → n.toNat ≤ 8 →
      exec .removeFaults s = .next { s.answered sel .ok
          [BitVec.ofNat 8 (min n.toNat s.fl.records.length),
            BitVec.ofNat 8 (s.fl.records.length - min n.toNat s.fl.records.length)] with
        fl := { s.fl with
          records := s.fl.records.drop (min n.toNat s.fl.records.length)
          overflow := if s.fl.records.length ≤ n.toNat then false else s.fl.overflow
          alert := decide (n.toNat < s.fl.records.length) && s.fl.alertEnable } })

/-- R153, R154, R190: SET_ALERT takes the value and ALERT follows it at once; another code is BAD_VALUE. -/
def Obligations.SetAlertTakesTheValue : Prop :=
  ∀ (s : State) (sel : Selection) (enable : Byte), Collected s sel 0x32 [enable] →
    (2 ≤ enable.toNat → exec .setAlert s = .next (s.answered sel .badValue [])) ∧
    (enable = 0 → exec .setAlert s = .next { s.answered sel .ok [] with
      fl := { s.fl with alertEnable := false, alert := false } }) ∧
    (enable = 1 → exec .setAlert s = .next { s.answered sel .ok [] with
      fl := { s.fl with alertEnable := true, alert := decide (s.fl.records ≠ []) } })

/-- R145 to R147, R154: a raised fault takes the counter's number; with room it joins the tail, and ALERT goes
with the enable; with 8 records it is lost and sets the overflow flag. -/
def Obligations.RaisedFaultIsRecordedOrLost : Prop :=
  ∀ (l : FaultLog) (c : FaultCause) (k : AccessKind) (n : Len) (a : LAddr),
    (l.records.length < 8 → l.raise c k n a = { l with
      records := l.records ++ [{ seq := l.nextSeq, cause := c, access := k, len := n, start := a }]
      nextSeq := l.nextSeq + 1, alert := l.alertEnable }) ∧
    (LogSound l → l.records.length = 8 → l.raise c k n a = { l with
      overflow := true, nextSeq := l.nextSeq + 1 })

/-- R136, R174, R191, R194: READ_QUEUE reports depth, mark, head and next number, and with clear yes the mark is
then the depth; READ_LINK_STATUS reports the five counters and with clear yes sets them to 0. -/
def Obligations.ClearingReportsOfQueueAndLink : Prop :=
  (∀ (s : State) (sel : Selection) (clear : Byte), Collected s sel 0x40 [clear] → ∀ head : Byte,
    (∀ e rest, s.wq.entries = e :: rest → head = e.seq) → (s.wq.entries = [] → head = s.wq.nextSeq) →
    (2 ≤ clear.toNat → exec .readQueue s = .next (s.answered sel .badValue [])) ∧
    (clear = 0 → exec .readQueue s = .next (s.answered sel .ok
      [BitVec.ofNat 8 s.wq.entries.length, BitVec.ofNat 8 s.wq.highWater, head, s.wq.nextSeq])) ∧
    (clear = 1 → exec .readQueue s = .next { s.answered sel .ok
      [BitVec.ofNat 8 s.wq.entries.length, BitVec.ofNat 8 s.wq.highWater, head, s.wq.nextSeq] with
        wq := { s.wq with highWater := s.wq.entries.length } })) ∧
  (∀ (s : State) (sel : Selection) (clear : Byte), Collected s sel 0x50 [clear] →
    (2 ≤ clear.toNat → exec .readLinkStatus s = .next (s.answered sel .badValue [])) ∧
    (clear = 0 → exec .readLinkStatus s = .next (s.answered sel .ok
      [s.sl.counters.framing, s.sl.counters.badChecks, s.sl.counters.gaps, s.sl.counters.ignored,
        s.sl.counters.breaks])) ∧
    (clear = 1 → exec .readLinkStatus s = .next { s with sl := { s.sl.answered sel .ok
      [s.sl.counters.framing, s.sl.counters.badChecks, s.sl.counters.gaps, s.sl.counters.ignored,
        s.sl.counters.breaks] with
        counters := { framing := 0, badChecks := 0, gaps := 0, ignored := 0, breaks := 0 } } }))

/-- R137, R166, R169, R192: a DRAIN of an empty queue is answered at once with three zeros; else it marks the entries
present, first to last, and the unit stays in EXECUTING without a response, the command's byte sum, check and all,
being 0. -/
def Obligations.DrainMarksTheEntriesPresent : Prop :=
  ∀ (s : State) (sel : Selection), Collected s sel 0x41 [] →
    (s.wq.entries = [] → exec .drain s = .next (s.answered sel .ok [0, 0, 0])) ∧
    (∀ e rest, s.wq.entries = e :: rest → ∀ z, s.wq.entries.getLast? = some z →
      exec .drain s = .next { s with
        wq := { s.wq with marker := some { first := e.seq, last := z.seq, marked := rest.length + 1,
                                           completed := 0, timedOut := 0 } }
        sl := { s.sl.heard true with
          receiver := .executing sel, gapTimer := none, sinceCommand := 0
          command := some { opcode := 0x41, length := some 0, payload := [], sum := 0 } } })

/-! ### Encodings -/

/-- R42, R43, R198, R199: a window entry and a profile in range, a trigger and the globals are read back from their
16, 6, 5 and 2 bytes with every field at every value; and what each of these bytes holds. R20, R42, R181: an accepted
window entry is stored with its present fields as offered and its absent fields zero, so that entries which differ in
absent bytes alone are stored alike. -/
def Obligations.TableEntriesRoundTrip : Prop :=
  (∀ w : WindowEntry, w.inRange → (encodeWindow w).length = 16 ∧ decodeWindow (encodeWindow w) = some w) ∧
  (∀ p : Profile, p.inRange = true → (encodeProfile p).length = 6 ∧ decodeProfile (encodeProfile p) = some p) ∧
  (∀ g : Trigger, (encodeTrigger g).length = 5 ∧ decodeTrigger (encodeTrigger g) = some g) ∧
  (∀ g : Globals, (encodeGlobals g).length = 2 ∧ decodeGlobals (encodeGlobals g) = some g) ∧
  (∀ w : WindowEntry, ∃ a : Byte,
    encodeWindow w =
      [a, BitVec.ofNat 8 w.sizeExp, BitVec.ofNat 8 (w.select.val + 16 * w.profile.val)] ++
      [w.logicalBase.extractLsb' 0 8, w.logicalBase.extractLsb' 8 8, w.logicalBase.extractLsb' 16 8] ++
      physBytes w.physBase ++
      [if w.kind = .banked then BitVec.ofNat 8 (w.bankCount - 1) else 0, w.initialBank,
        match w.policy with
        | .atOnce => 0
        | .onExit => 1
        | .atLanding => 2] ++
      [w.landing.extractLsb' 0 8, w.landing.extractLsb' 8 8, w.landing.extractLsb' 16 8] ∧
    a.getLsbD 0 = w.valid ∧ a.getLsbD 1 = decide (w.kind = .banked) ∧ a.getLsbD 2 = decide (w.order = .ordered) ∧
    a.getLsbD 3 = decide (w.width = .w16) ∧ a.getLsbD 4 = w.rights.read ∧ a.getLsbD 5 = w.rights.write ∧
    a.getLsbD 6 = w.rights.fetch ∧ a.getLsbD 7 = false) ∧
  (∀ p : Profile, encodeProfile p =
    [BitVec.ofNat 8 p.setup, BitVec.ofNat 8 p.strobe, if p.mode = .ready then 1 else 0, BitVec.ofNat 8 p.limit,
      BitVec.ofNat 8 (p.limit / 256), BitVec.ofNat 8 p.recovery]) ∧
  (∀ g : Trigger, encodeTrigger g =
    [if g.enabled then 1 else 0, g.addr.extractLsb' 0 8, g.addr.extractLsb' 8 8, g.addr.extractLsb' 16 8,
      BitVec.ofNat 8 g.target.val]) ∧
  (∀ g : Globals, encodeGlobals g = [if g.missPolicy = .fill then 1 else 0, g.fillByte]) ∧
  (∀ (a e sp l0 l1 l2 p0 p1 p2 p3 count initial policy o0 o1 o2 : Byte) (w : WindowEntry),
    decodeWindow [a, e, sp, l0, l1, l2, p0, p1, p2, p3, count, initial, policy, o0, o1, o2] = some w →
    w.valid = a.getLsbD 0 ∧ w.kind = (if a.getLsbD 1 then .banked else .plain) ∧
    w.order = (if a.getLsbD 2 then .ordered else .relaxed) ∧ w.width = (if a.getLsbD 3 then .w16 else .w8) ∧
    w.rights = { read := a.getLsbD 4, write := a.getLsbD 5, fetch := a.getLsbD 6 } ∧ w.sizeExp = e.toNat ∧
    w.select.val = sp.toNat % 16 ∧ w.profile.val = sp.toNat / 16 ∧ w.logicalBase = l2 ++ l1 ++ l0 ∧
    w.physBase.toNat = (p3 ++ p2 ++ p1 ++ p0).toNat ∧
    (a.getLsbD 1 = false → w.bankCount = 0 ∧ w.initialBank = 0 ∧ w.policy.code = 0 ∧ w.landing = 0) ∧
    (a.getLsbD 1 = true → w.bankCount = count.toNat + 1 ∧ w.initialBank = initial ∧ w.policy.code = policy ∧
      w.landing = if policy = 2 then o2 ++ o1 ++ o0 else 0)) ∧
  (∀ present absent other : List Byte, present.length = 10 → absent.length = 6 → other.length = 6 →
    (present.getD 0 0).getLsbD 1 = false → decodeWindow (present ++ absent) = decodeWindow (present ++ other)) ∧
  (∀ present absent other : List Byte, present.length = 13 → absent.length = 3 → other.length = 3 →
    (present.getD 0 0).getLsbD 1 = true → present.getD 12 0 ≠ 2 →
    decodeWindow (present ++ absent) = decodeWindow (present ++ other))

/-! ### Invariants -/

/-- Every invariant of Safety.lean holds of the machine right after reset. -/
def Obligations.ResetStateIsSound : Prop :=
  Sound State.reset

/-- R122 to R124: at most 8 entries, consecutive numbers, the mark between the depth and 8, at every step. -/
def Obligations.QueueStaysSound : Prop :=
  ∀ s t : State, QueueSound s.wq → step s = .next t → QueueSound t.wq

/-- R146, R147, R154: at most 8 records, the overflow flag only beside a record, ALERT exactly when a record is
held and the enable is yes, at every step. -/
def Obligations.LogAndAlertStaySound : Prop :=
  ∀ s t : State, LogSound s.fl → step s = .next t → LogSound t.fl

/-- R19, R35, R51: every entry of both sets stays in range and the live set passes validation, at every step. -/
def Obligations.TableSetsStayValid : Prop :=
  ∀ s t : State, TablesInRange s → LiveValid s → step s = .next t → TablesInRange t ∧ LiveValid t

/-- R56, R67: exactly the valid BANKED live windows have bank state, below their bank counts, at every step. -/
def Obligations.BankStatesStaySound : Prop :=
  ∀ s t : State, BanksSound s → step s = .next t → BanksSound t

/-- R138, R162 to R173, R193: link and drain marker stay sound, at every step. The queue's numbering is a premise:
a marker names entries by their numbers. -/
def Obligations.LinkAndMarkerStaySound : Prop :=
  ∀ s t : State, QueueSound s.wq → DrainSound s.wq → LinkSound s.sl s.wq.marker → step s = .next t →
    DrainSound t.wq ∧ LinkSound t.sl t.wq.marker

/-- R4, R85, R101 to R109, R112, R114, R117, R121: port, queue and memory port stay together, with the counts and
outputs of every phase, at every step. -/
def Obligations.PortsStaySound : Prop :=
  ∀ s t : State, TablesInRange s → LiveValid s → QueueSound s.wq → PortsSound s → BeatSound s →
    step s = .next t → PortsSound t ∧ BeatSound t

/-- R16, R120, R141, R156, R175: while RESET is held no access, beat, record or conversation begins. -/
def Obligations.HeldResetStaysQuiet : Prop :=
  ∀ s t : State, HeldSound s → step s = .next t → HeldSound t

/-- In a sound state no step is stuck: neither stuck fault of the model is ever raised (log 16). -/
def Obligations.SoundStateIsNeverStuck : Prop :=
  ∀ (s : State) (f : Fault), Sound s → step s ≠ .fault f

/-- R134: no read or fetch beat runs while the queue holds an entry that overlaps it; and no ORDERED access's
beat runs while the queue holds any entry (R133). -/
def Obligations.NoReadBeatOverAQueuedByte : Prop :=
  ∀ (s : State) (t : Txn) (b : Beat), PortsSound s → s.mp.phase ≠ .idle → s.mp.current = some .port →
    currentBeat s = some (t, b) →
    (t.kind ≠ .write → ∀ e ∈ s.wq.entries, e.txn.overlaps t = false) ∧
    (t.order = .ordered → s.wq.entries = [])

end
end

