-- ==== Sys2Proof/Laws/State.lean ====
section
/-! SUPPORT. One lemma per field and named update of State: an update changes its own field and no other. -/
namespace Sys2Proof.Machine

@[simp] theorem State.setPending_pending (s : State) (x : List Instr) : (s.setPending x).pending = x := rfl
@[simp] theorem State.setPending_resetHeld (s : State) (x : List Instr) : (s.setPending x).resetHeld = s.resetHeld := rfl
@[simp] theorem State.setPending_period (s : State) (x : List Instr) : (s.setPending x).period = s.period := rfl
@[simp] theorem State.setPending_straps (s : State) (x : List Instr) : (s.setPending x).straps = s.straps := rfl
@[simp] theorem State.setPending_live (s : State) (x : List Instr) : (s.setPending x).live = s.live := rfl
@[simp] theorem State.setPending_staged (s : State) (x : List Instr) : (s.setPending x).staged = s.staged := rfl
@[simp] theorem State.setPending_banks (s : State) (x : List Instr) : (s.setPending x).banks = s.banks := rfl
@[simp] theorem State.setPending_pp (s : State) (x : List Instr) : (s.setPending x).pp = s.pp := rfl
@[simp] theorem State.setPending_answer (s : State) (x : List Instr) : (s.setPending x).answer = s.answer := rfl
@[simp] theorem State.setPending_wq (s : State) (x : List Instr) : (s.setPending x).wq = s.wq := rfl
@[simp] theorem State.setPending_mp (s : State) (x : List Instr) : (s.setPending x).mp = s.mp := rfl
@[simp] theorem State.setPending_fl (s : State) (x : List Instr) : (s.setPending x).fl = s.fl := rfl
@[simp] theorem State.setPending_sl (s : State) (x : List Instr) : (s.setPending x).sl = s.sl := rfl

@[simp] theorem State.setResetHeld_pending (s : State) (x : Bool) : (s.setResetHeld x).pending = s.pending := rfl
@[simp] theorem State.setResetHeld_resetHeld (s : State) (x : Bool) : (s.setResetHeld x).resetHeld = x := rfl
@[simp] theorem State.setResetHeld_period (s : State) (x : Bool) : (s.setResetHeld x).period = s.period := rfl
@[simp] theorem State.setResetHeld_straps (s : State) (x : Bool) : (s.setResetHeld x).straps = s.straps := rfl
@[simp] theorem State.setResetHeld_live (s : State) (x : Bool) : (s.setResetHeld x).live = s.live := rfl
@[simp] theorem State.setResetHeld_staged (s : State) (x : Bool) : (s.setResetHeld x).staged = s.staged := rfl
@[simp] theorem State.setResetHeld_banks (s : State) (x : Bool) : (s.setResetHeld x).banks = s.banks := rfl
@[simp] theorem State.setResetHeld_pp (s : State) (x : Bool) : (s.setResetHeld x).pp = s.pp := rfl
@[simp] theorem State.setResetHeld_answer (s : State) (x : Bool) : (s.setResetHeld x).answer = s.answer := rfl
@[simp] theorem State.setResetHeld_wq (s : State) (x : Bool) : (s.setResetHeld x).wq = s.wq := rfl
@[simp] theorem State.setResetHeld_mp (s : State) (x : Bool) : (s.setResetHeld x).mp = s.mp := rfl
@[simp] theorem State.setResetHeld_fl (s : State) (x : Bool) : (s.setResetHeld x).fl = s.fl := rfl
@[simp] theorem State.setResetHeld_sl (s : State) (x : Bool) : (s.setResetHeld x).sl = s.sl := rfl

@[simp] theorem State.setPeriod_pending (s : State) (x : Nat) : (s.setPeriod x).pending = s.pending := rfl
@[simp] theorem State.setPeriod_resetHeld (s : State) (x : Nat) : (s.setPeriod x).resetHeld = s.resetHeld := rfl
@[simp] theorem State.setPeriod_period (s : State) (x : Nat) : (s.setPeriod x).period = x := rfl
@[simp] theorem State.setPeriod_straps (s : State) (x : Nat) : (s.setPeriod x).straps = s.straps := rfl
@[simp] theorem State.setPeriod_live (s : State) (x : Nat) : (s.setPeriod x).live = s.live := rfl
@[simp] theorem State.setPeriod_staged (s : State) (x : Nat) : (s.setPeriod x).staged = s.staged := rfl
@[simp] theorem State.setPeriod_banks (s : State) (x : Nat) : (s.setPeriod x).banks = s.banks := rfl
@[simp] theorem State.setPeriod_pp (s : State) (x : Nat) : (s.setPeriod x).pp = s.pp := rfl
@[simp] theorem State.setPeriod_answer (s : State) (x : Nat) : (s.setPeriod x).answer = s.answer := rfl
@[simp] theorem State.setPeriod_wq (s : State) (x : Nat) : (s.setPeriod x).wq = s.wq := rfl
@[simp] theorem State.setPeriod_mp (s : State) (x : Nat) : (s.setPeriod x).mp = s.mp := rfl
@[simp] theorem State.setPeriod_fl (s : State) (x : Nat) : (s.setPeriod x).fl = s.fl := rfl
@[simp] theorem State.setPeriod_sl (s : State) (x : Nat) : (s.setPeriod x).sl = s.sl := rfl

@[simp] theorem State.setLive_pending (s : State) (x : TableSet) : (s.setLive x).pending = s.pending := rfl
@[simp] theorem State.setLive_resetHeld (s : State) (x : TableSet) : (s.setLive x).resetHeld = s.resetHeld := rfl
@[simp] theorem State.setLive_period (s : State) (x : TableSet) : (s.setLive x).period = s.period := rfl
@[simp] theorem State.setLive_straps (s : State) (x : TableSet) : (s.setLive x).straps = s.straps := rfl
@[simp] theorem State.setLive_live (s : State) (x : TableSet) : (s.setLive x).live = x := rfl
@[simp] theorem State.setLive_staged (s : State) (x : TableSet) : (s.setLive x).staged = s.staged := rfl
@[simp] theorem State.setLive_banks (s : State) (x : TableSet) : (s.setLive x).banks = s.banks := rfl
@[simp] theorem State.setLive_pp (s : State) (x : TableSet) : (s.setLive x).pp = s.pp := rfl
@[simp] theorem State.setLive_answer (s : State) (x : TableSet) : (s.setLive x).answer = s.answer := rfl
@[simp] theorem State.setLive_wq (s : State) (x : TableSet) : (s.setLive x).wq = s.wq := rfl
@[simp] theorem State.setLive_mp (s : State) (x : TableSet) : (s.setLive x).mp = s.mp := rfl
@[simp] theorem State.setLive_fl (s : State) (x : TableSet) : (s.setLive x).fl = s.fl := rfl
@[simp] theorem State.setLive_sl (s : State) (x : TableSet) : (s.setLive x).sl = s.sl := rfl

@[simp] theorem State.setStaged_pending (s : State) (x : TableSet) : (s.setStaged x).pending = s.pending := rfl
@[simp] theorem State.setStaged_resetHeld (s : State) (x : TableSet) : (s.setStaged x).resetHeld = s.resetHeld := rfl
@[simp] theorem State.setStaged_period (s : State) (x : TableSet) : (s.setStaged x).period = s.period := rfl
@[simp] theorem State.setStaged_straps (s : State) (x : TableSet) : (s.setStaged x).straps = s.straps := rfl
@[simp] theorem State.setStaged_live (s : State) (x : TableSet) : (s.setStaged x).live = s.live := rfl
@[simp] theorem State.setStaged_staged (s : State) (x : TableSet) : (s.setStaged x).staged = x := rfl
@[simp] theorem State.setStaged_banks (s : State) (x : TableSet) : (s.setStaged x).banks = s.banks := rfl
@[simp] theorem State.setStaged_pp (s : State) (x : TableSet) : (s.setStaged x).pp = s.pp := rfl
@[simp] theorem State.setStaged_answer (s : State) (x : TableSet) : (s.setStaged x).answer = s.answer := rfl
@[simp] theorem State.setStaged_wq (s : State) (x : TableSet) : (s.setStaged x).wq = s.wq := rfl
@[simp] theorem State.setStaged_mp (s : State) (x : TableSet) : (s.setStaged x).mp = s.mp := rfl
@[simp] theorem State.setStaged_fl (s : State) (x : TableSet) : (s.setStaged x).fl = s.fl := rfl
@[simp] theorem State.setStaged_sl (s : State) (x : TableSet) : (s.setStaged x).sl = s.sl := rfl

@[simp] theorem State.setBanks_pending (s : State) (x : Banks) : (s.setBanks x).pending = s.pending := rfl
@[simp] theorem State.setBanks_resetHeld (s : State) (x : Banks) : (s.setBanks x).resetHeld = s.resetHeld := rfl
@[simp] theorem State.setBanks_period (s : State) (x : Banks) : (s.setBanks x).period = s.period := rfl
@[simp] theorem State.setBanks_straps (s : State) (x : Banks) : (s.setBanks x).straps = s.straps := rfl
@[simp] theorem State.setBanks_live (s : State) (x : Banks) : (s.setBanks x).live = s.live := rfl
@[simp] theorem State.setBanks_staged (s : State) (x : Banks) : (s.setBanks x).staged = s.staged := rfl
@[simp] theorem State.setBanks_banks (s : State) (x : Banks) : (s.setBanks x).banks = x := rfl
@[simp] theorem State.setBanks_pp (s : State) (x : Banks) : (s.setBanks x).pp = s.pp := rfl
@[simp] theorem State.setBanks_answer (s : State) (x : Banks) : (s.setBanks x).answer = s.answer := rfl
@[simp] theorem State.setBanks_wq (s : State) (x : Banks) : (s.setBanks x).wq = s.wq := rfl
@[simp] theorem State.setBanks_mp (s : State) (x : Banks) : (s.setBanks x).mp = s.mp := rfl
@[simp] theorem State.setBanks_fl (s : State) (x : Banks) : (s.setBanks x).fl = s.fl := rfl
@[simp] theorem State.setBanks_sl (s : State) (x : Banks) : (s.setBanks x).sl = s.sl := rfl

@[simp] theorem State.setPp_pending (s : State) (x : PortState) : (s.setPp x).pending = s.pending := rfl
@[simp] theorem State.setPp_resetHeld (s : State) (x : PortState) : (s.setPp x).resetHeld = s.resetHeld := rfl
@[simp] theorem State.setPp_period (s : State) (x : PortState) : (s.setPp x).period = s.period := rfl
@[simp] theorem State.setPp_straps (s : State) (x : PortState) : (s.setPp x).straps = s.straps := rfl
@[simp] theorem State.setPp_live (s : State) (x : PortState) : (s.setPp x).live = s.live := rfl
@[simp] theorem State.setPp_staged (s : State) (x : PortState) : (s.setPp x).staged = s.staged := rfl
@[simp] theorem State.setPp_banks (s : State) (x : PortState) : (s.setPp x).banks = s.banks := rfl
@[simp] theorem State.setPp_pp (s : State) (x : PortState) : (s.setPp x).pp = x := rfl
@[simp] theorem State.setPp_answer (s : State) (x : PortState) : (s.setPp x).answer = s.answer := rfl
@[simp] theorem State.setPp_wq (s : State) (x : PortState) : (s.setPp x).wq = s.wq := rfl
@[simp] theorem State.setPp_mp (s : State) (x : PortState) : (s.setPp x).mp = s.mp := rfl
@[simp] theorem State.setPp_fl (s : State) (x : PortState) : (s.setPp x).fl = s.fl := rfl
@[simp] theorem State.setPp_sl (s : State) (x : PortState) : (s.setPp x).sl = s.sl := rfl

@[simp] theorem State.setAnswer_pending (s : State) (x : Option PortAnswer) : (s.setAnswer x).pending = s.pending := rfl
@[simp] theorem State.setAnswer_resetHeld (s : State) (x : Option PortAnswer) : (s.setAnswer x).resetHeld = s.resetHeld := rfl
@[simp] theorem State.setAnswer_period (s : State) (x : Option PortAnswer) : (s.setAnswer x).period = s.period := rfl
@[simp] theorem State.setAnswer_straps (s : State) (x : Option PortAnswer) : (s.setAnswer x).straps = s.straps := rfl
@[simp] theorem State.setAnswer_live (s : State) (x : Option PortAnswer) : (s.setAnswer x).live = s.live := rfl
@[simp] theorem State.setAnswer_staged (s : State) (x : Option PortAnswer) : (s.setAnswer x).staged = s.staged := rfl
@[simp] theorem State.setAnswer_banks (s : State) (x : Option PortAnswer) : (s.setAnswer x).banks = s.banks := rfl
@[simp] theorem State.setAnswer_pp (s : State) (x : Option PortAnswer) : (s.setAnswer x).pp = s.pp := rfl
@[simp] theorem State.setAnswer_answer (s : State) (x : Option PortAnswer) : (s.setAnswer x).answer = x := rfl
@[simp] theorem State.setAnswer_wq (s : State) (x : Option PortAnswer) : (s.setAnswer x).wq = s.wq := rfl
@[simp] theorem State.setAnswer_mp (s : State) (x : Option PortAnswer) : (s.setAnswer x).mp = s.mp := rfl
@[simp] theorem State.setAnswer_fl (s : State) (x : Option PortAnswer) : (s.setAnswer x).fl = s.fl := rfl
@[simp] theorem State.setAnswer_sl (s : State) (x : Option PortAnswer) : (s.setAnswer x).sl = s.sl := rfl

@[simp] theorem State.setWq_pending (s : State) (x : WriteQueue) : (s.setWq x).pending = s.pending := rfl
@[simp] theorem State.setWq_resetHeld (s : State) (x : WriteQueue) : (s.setWq x).resetHeld = s.resetHeld := rfl
@[simp] theorem State.setWq_period (s : State) (x : WriteQueue) : (s.setWq x).period = s.period := rfl
@[simp] theorem State.setWq_straps (s : State) (x : WriteQueue) : (s.setWq x).straps = s.straps := rfl
@[simp] theorem State.setWq_live (s : State) (x : WriteQueue) : (s.setWq x).live = s.live := rfl
@[simp] theorem State.setWq_staged (s : State) (x : WriteQueue) : (s.setWq x).staged = s.staged := rfl
@[simp] theorem State.setWq_banks (s : State) (x : WriteQueue) : (s.setWq x).banks = s.banks := rfl
@[simp] theorem State.setWq_pp (s : State) (x : WriteQueue) : (s.setWq x).pp = s.pp := rfl
@[simp] theorem State.setWq_answer (s : State) (x : WriteQueue) : (s.setWq x).answer = s.answer := rfl
@[simp] theorem State.setWq_wq (s : State) (x : WriteQueue) : (s.setWq x).wq = x := rfl
@[simp] theorem State.setWq_mp (s : State) (x : WriteQueue) : (s.setWq x).mp = s.mp := rfl
@[simp] theorem State.setWq_fl (s : State) (x : WriteQueue) : (s.setWq x).fl = s.fl := rfl
@[simp] theorem State.setWq_sl (s : State) (x : WriteQueue) : (s.setWq x).sl = s.sl := rfl

@[simp] theorem State.setMp_pending (s : State) (x : MemPort) : (s.setMp x).pending = s.pending := rfl
@[simp] theorem State.setMp_resetHeld (s : State) (x : MemPort) : (s.setMp x).resetHeld = s.resetHeld := rfl
@[simp] theorem State.setMp_period (s : State) (x : MemPort) : (s.setMp x).period = s.period := rfl
@[simp] theorem State.setMp_straps (s : State) (x : MemPort) : (s.setMp x).straps = s.straps := rfl
@[simp] theorem State.setMp_live (s : State) (x : MemPort) : (s.setMp x).live = s.live := rfl
@[simp] theorem State.setMp_staged (s : State) (x : MemPort) : (s.setMp x).staged = s.staged := rfl
@[simp] theorem State.setMp_banks (s : State) (x : MemPort) : (s.setMp x).banks = s.banks := rfl
@[simp] theorem State.setMp_pp (s : State) (x : MemPort) : (s.setMp x).pp = s.pp := rfl
@[simp] theorem State.setMp_answer (s : State) (x : MemPort) : (s.setMp x).answer = s.answer := rfl
@[simp] theorem State.setMp_wq (s : State) (x : MemPort) : (s.setMp x).wq = s.wq := rfl
@[simp] theorem State.setMp_mp (s : State) (x : MemPort) : (s.setMp x).mp = x := rfl
@[simp] theorem State.setMp_fl (s : State) (x : MemPort) : (s.setMp x).fl = s.fl := rfl
@[simp] theorem State.setMp_sl (s : State) (x : MemPort) : (s.setMp x).sl = s.sl := rfl

@[simp] theorem State.setFl_pending (s : State) (x : FaultLog) : (s.setFl x).pending = s.pending := rfl
@[simp] theorem State.setFl_resetHeld (s : State) (x : FaultLog) : (s.setFl x).resetHeld = s.resetHeld := rfl
@[simp] theorem State.setFl_period (s : State) (x : FaultLog) : (s.setFl x).period = s.period := rfl
@[simp] theorem State.setFl_straps (s : State) (x : FaultLog) : (s.setFl x).straps = s.straps := rfl
@[simp] theorem State.setFl_live (s : State) (x : FaultLog) : (s.setFl x).live = s.live := rfl
@[simp] theorem State.setFl_staged (s : State) (x : FaultLog) : (s.setFl x).staged = s.staged := rfl
@[simp] theorem State.setFl_banks (s : State) (x : FaultLog) : (s.setFl x).banks = s.banks := rfl
@[simp] theorem State.setFl_pp (s : State) (x : FaultLog) : (s.setFl x).pp = s.pp := rfl
@[simp] theorem State.setFl_answer (s : State) (x : FaultLog) : (s.setFl x).answer = s.answer := rfl
@[simp] theorem State.setFl_wq (s : State) (x : FaultLog) : (s.setFl x).wq = s.wq := rfl
@[simp] theorem State.setFl_mp (s : State) (x : FaultLog) : (s.setFl x).mp = s.mp := rfl
@[simp] theorem State.setFl_fl (s : State) (x : FaultLog) : (s.setFl x).fl = x := rfl
@[simp] theorem State.setFl_sl (s : State) (x : FaultLog) : (s.setFl x).sl = s.sl := rfl

@[simp] theorem State.setSl_pending (s : State) (x : ServiceLink) : (s.setSl x).pending = s.pending := rfl
@[simp] theorem State.setSl_resetHeld (s : State) (x : ServiceLink) : (s.setSl x).resetHeld = s.resetHeld := rfl
@[simp] theorem State.setSl_period (s : State) (x : ServiceLink) : (s.setSl x).period = s.period := rfl
@[simp] theorem State.setSl_straps (s : State) (x : ServiceLink) : (s.setSl x).straps = s.straps := rfl
@[simp] theorem State.setSl_live (s : State) (x : ServiceLink) : (s.setSl x).live = s.live := rfl
@[simp] theorem State.setSl_staged (s : State) (x : ServiceLink) : (s.setSl x).staged = s.staged := rfl
@[simp] theorem State.setSl_banks (s : State) (x : ServiceLink) : (s.setSl x).banks = s.banks := rfl
@[simp] theorem State.setSl_pp (s : State) (x : ServiceLink) : (s.setSl x).pp = s.pp := rfl
@[simp] theorem State.setSl_answer (s : State) (x : ServiceLink) : (s.setSl x).answer = s.answer := rfl
@[simp] theorem State.setSl_wq (s : State) (x : ServiceLink) : (s.setSl x).wq = s.wq := rfl
@[simp] theorem State.setSl_mp (s : State) (x : ServiceLink) : (s.setSl x).mp = s.mp := rfl
@[simp] theorem State.setSl_fl (s : State) (x : ServiceLink) : (s.setSl x).fl = s.fl := rfl
@[simp] theorem State.setSl_sl (s : State) (x : ServiceLink) : (s.setSl x).sl = x := rfl

end Sys2Proof.Machine
end

