-- ==== Sys2Proof/Laws/Frames.lean ====
section
/-! SUPPORT. What each shared operation leaves unchanged, field by field. -/
namespace Sys2Proof.Machine

@[simp] theorem raiseFault_frame (c : FaultCause) (k : AccessKind) (l : Len) (a : LAddr) (s : State) :
    (raiseFault c k l a s).pending = s.pending ∧
    (raiseFault c k l a s).resetHeld = s.resetHeld ∧
    (raiseFault c k l a s).period = s.period ∧
    (raiseFault c k l a s).straps = s.straps ∧
    (raiseFault c k l a s).live = s.live ∧
    (raiseFault c k l a s).staged = s.staged ∧
    (raiseFault c k l a s).banks = s.banks ∧
    (raiseFault c k l a s).pp = s.pp ∧
    (raiseFault c k l a s).answer = s.answer ∧
    (raiseFault c k l a s).wq = s.wq ∧
    (raiseFault c k l a s).mp = s.mp ∧
    (raiseFault c k l a s).sl = s.sl := by
  simp only [raiseFault]
  repeat' split
  all_goals simp

@[simp] theorem applyStaged_frame (s : State) :
    (applyStaged s).pending = s.pending ∧
    (applyStaged s).resetHeld = s.resetHeld ∧
    (applyStaged s).period = s.period ∧
    (applyStaged s).straps = s.straps ∧
    (applyStaged s).staged = s.staged ∧
    (applyStaged s).pp = s.pp ∧
    (applyStaged s).answer = s.answer ∧
    (applyStaged s).wq = s.wq ∧
    (applyStaged s).mp = s.mp ∧
    (applyStaged s).fl = s.fl ∧
    (applyStaged s).sl = s.sl := by
  simp only [applyStaged]
  repeat' split
  all_goals simp

@[simp] theorem captureOne_frame (a : Access) (c : Byte) (s : State) (j : Fin 4) :
    (captureOne a c s j).pending = s.pending ∧
    (captureOne a c s j).resetHeld = s.resetHeld ∧
    (captureOne a c s j).period = s.period ∧
    (captureOne a c s j).straps = s.straps ∧
    (captureOne a c s j).live = s.live ∧
    (captureOne a c s j).staged = s.staged ∧
    (captureOne a c s j).pp = s.pp ∧
    (captureOne a c s j).answer = s.answer ∧
    (captureOne a c s j).wq = s.wq ∧
    (captureOne a c s j).mp = s.mp ∧
    (captureOne a c s j).sl = s.sl := by
  simp only [captureOne]
  repeat' split
  all_goals simp

@[simp] theorem finishExecution_frame (st : Status) (p : List Byte) (s : State) :
    (finishExecution st p s).pending = s.pending ∧
    (finishExecution st p s).resetHeld = s.resetHeld ∧
    (finishExecution st p s).period = s.period ∧
    (finishExecution st p s).straps = s.straps ∧
    (finishExecution st p s).live = s.live ∧
    (finishExecution st p s).staged = s.staged ∧
    (finishExecution st p s).banks = s.banks ∧
    (finishExecution st p s).pp = s.pp ∧
    (finishExecution st p s).answer = s.answer ∧
    (finishExecution st p s).wq = s.wq ∧
    (finishExecution st p s).mp = s.mp ∧
    (finishExecution st p s).fl = s.fl := by
  simp only [finishExecution]
  repeat' split
  all_goals simp

@[simp] theorem abandonDrain_frame (s : State) :
    (abandonDrain s).pending = s.pending ∧
    (abandonDrain s).resetHeld = s.resetHeld ∧
    (abandonDrain s).period = s.period ∧
    (abandonDrain s).straps = s.straps ∧
    (abandonDrain s).live = s.live ∧
    (abandonDrain s).staged = s.staged ∧
    (abandonDrain s).banks = s.banks ∧
    (abandonDrain s).pp = s.pp ∧
    (abandonDrain s).answer = s.answer ∧
    (abandonDrain s).mp = s.mp ∧
    (abandonDrain s).fl = s.fl ∧
    (abandonDrain s).sl = s.sl := by
  simp only [abandonDrain]
  repeat' split
  all_goals simp

@[simp] theorem takeAddress_frame (v : Byte) (s : State) :
    (takeAddress v s).pending = s.pending ∧
    (takeAddress v s).resetHeld = s.resetHeld ∧
    (takeAddress v s).period = s.period ∧
    (takeAddress v s).straps = s.straps ∧
    (takeAddress v s).live = s.live ∧
    (takeAddress v s).staged = s.staged ∧
    (takeAddress v s).banks = s.banks ∧
    (takeAddress v s).pp = s.pp ∧
    (takeAddress v s).answer = s.answer ∧
    (takeAddress v s).mp = s.mp ∧
    (takeAddress v s).fl = s.fl := by
  simp only [takeAddress]
  repeat' split
  all_goals simp

@[simp] theorem takeBreak_frame (s : State) :
    (takeBreak s).pending = s.pending ∧
    (takeBreak s).resetHeld = s.resetHeld ∧
    (takeBreak s).period = s.period ∧
    (takeBreak s).straps = s.straps ∧
    (takeBreak s).live = s.live ∧
    (takeBreak s).staged = s.staged ∧
    (takeBreak s).banks = s.banks ∧
    (takeBreak s).pp = s.pp ∧
    (takeBreak s).answer = s.answer ∧
    (takeBreak s).mp = s.mp ∧
    (takeBreak s).fl = s.fl := by
  simp only [takeBreak]
  repeat' split
  all_goals simp

@[simp] theorem takeFramingError_frame (s : State) :
    (takeFramingError s).pending = s.pending ∧
    (takeFramingError s).resetHeld = s.resetHeld ∧
    (takeFramingError s).period = s.period ∧
    (takeFramingError s).straps = s.straps ∧
    (takeFramingError s).live = s.live ∧
    (takeFramingError s).staged = s.staged ∧
    (takeFramingError s).banks = s.banks ∧
    (takeFramingError s).pp = s.pp ∧
    (takeFramingError s).answer = s.answer ∧
    (takeFramingError s).wq = s.wq ∧
    (takeFramingError s).mp = s.mp ∧
    (takeFramingError s).fl = s.fl := by
  simp only [takeFramingError]
  repeat' split
  all_goals simp

@[simp] theorem takeGapTimeout_frame (s : State) :
    (takeGapTimeout s).pending = s.pending ∧
    (takeGapTimeout s).resetHeld = s.resetHeld ∧
    (takeGapTimeout s).period = s.period ∧
    (takeGapTimeout s).straps = s.straps ∧
    (takeGapTimeout s).live = s.live ∧
    (takeGapTimeout s).staged = s.staged ∧
    (takeGapTimeout s).banks = s.banks ∧
    (takeGapTimeout s).pp = s.pp ∧
    (takeGapTimeout s).answer = s.answer ∧
    (takeGapTimeout s).wq = s.wq ∧
    (takeGapTimeout s).mp = s.mp ∧
    (takeGapTimeout s).fl = s.fl := by
  simp only [takeGapTimeout]
  repeat' split
  all_goals simp

@[simp] theorem overdueGap_frame (s : State) :
    (overdueGap s).pending = s.pending ∧
    (overdueGap s).resetHeld = s.resetHeld ∧
    (overdueGap s).period = s.period ∧
    (overdueGap s).straps = s.straps ∧
    (overdueGap s).live = s.live ∧
    (overdueGap s).staged = s.staged ∧
    (overdueGap s).banks = s.banks ∧
    (overdueGap s).pp = s.pp ∧
    (overdueGap s).answer = s.answer ∧
    (overdueGap s).wq = s.wq ∧
    (overdueGap s).mp = s.mp ∧
    (overdueGap s).fl = s.fl := by
  simp only [overdueGap]
  repeat' split
  all_goals simp

@[simp] theorem beginResponseFrames_frame (s : State) :
    (beginResponseFrames s).pending = s.pending ∧
    (beginResponseFrames s).resetHeld = s.resetHeld ∧
    (beginResponseFrames s).period = s.period ∧
    (beginResponseFrames s).straps = s.straps ∧
    (beginResponseFrames s).live = s.live ∧
    (beginResponseFrames s).staged = s.staged ∧
    (beginResponseFrames s).banks = s.banks ∧
    (beginResponseFrames s).pp = s.pp ∧
    (beginResponseFrames s).answer = s.answer ∧
    (beginResponseFrames s).wq = s.wq ∧
    (beginResponseFrames s).mp = s.mp ∧
    (beginResponseFrames s).fl = s.fl := by
  simp only [beginResponseFrames]
  repeat' split
  all_goals simp

@[simp] theorem endResponseFrame_frame (k : Nat) (s : State) :
    (endResponseFrame k s).pending = s.pending ∧
    (endResponseFrame k s).resetHeld = s.resetHeld ∧
    (endResponseFrame k s).period = s.period ∧
    (endResponseFrame k s).straps = s.straps ∧
    (endResponseFrame k s).live = s.live ∧
    (endResponseFrame k s).staged = s.staged ∧
    (endResponseFrame k s).banks = s.banks ∧
    (endResponseFrame k s).pp = s.pp ∧
    (endResponseFrame k s).answer = s.answer ∧
    (endResponseFrame k s).wq = s.wq ∧
    (endResponseFrame k s).mp = s.mp ∧
    (endResponseFrame k s).fl = s.fl := by
  simp only [endResponseFrame]
  repeat' split
  all_goals simp

@[simp] theorem grantHead_frame (s : State) :
    (grantHead s).pending = s.pending ∧
    (grantHead s).resetHeld = s.resetHeld ∧
    (grantHead s).period = s.period ∧
    (grantHead s).straps = s.straps ∧
    (grantHead s).live = s.live ∧
    (grantHead s).staged = s.staged ∧
    (grantHead s).banks = s.banks ∧
    (grantHead s).pp = s.pp ∧
    (grantHead s).answer = s.answer ∧
    (grantHead s).fl = s.fl ∧
    (grantHead s).sl = s.sl := by
  simp only [grantHead]
  repeat' split
  all_goals simp

@[simp] theorem grantPort_frame (a : Access) (t : Txn) (s : State) :
    (grantPort a t s).pending = s.pending ∧
    (grantPort a t s).resetHeld = s.resetHeld ∧
    (grantPort a t s).period = s.period ∧
    (grantPort a t s).straps = s.straps ∧
    (grantPort a t s).live = s.live ∧
    (grantPort a t s).staged = s.staged ∧
    (grantPort a t s).banks = s.banks ∧
    (grantPort a t s).answer = s.answer ∧
    (grantPort a t s).wq = s.wq ∧
    (grantPort a t s).fl = s.fl ∧
    (grantPort a t s).sl = s.sl := by
  simp only [grantPort]
  repeat' split
  all_goals simp

@[simp] theorem arbitrate_frame (s : State) :
    (arbitrate s).pending = s.pending ∧
    (arbitrate s).resetHeld = s.resetHeld ∧
    (arbitrate s).period = s.period ∧
    (arbitrate s).straps = s.straps ∧
    (arbitrate s).live = s.live ∧
    (arbitrate s).staged = s.staged ∧
    (arbitrate s).banks = s.banks ∧
    (arbitrate s).answer = s.answer ∧
    (arbitrate s).fl = s.fl ∧
    (arbitrate s).sl = s.sl := by
  simp only [arbitrate]
  repeat' split
  all_goals simp

@[simp] theorem admitWrite_frame (t : Txn) (s : State) :
    (admitWrite t s).pending = s.pending ∧
    (admitWrite t s).resetHeld = s.resetHeld ∧
    (admitWrite t s).period = s.period ∧
    (admitWrite t s).straps = s.straps ∧
    (admitWrite t s).live = s.live ∧
    (admitWrite t s).staged = s.staged ∧
    (admitWrite t s).banks = s.banks ∧
    (admitWrite t s).mp = s.mp ∧
    (admitWrite t s).fl = s.fl ∧
    (admitWrite t s).sl = s.sl := by
  simp only [admitWrite]
  repeat' split
  all_goals simp

@[simp] theorem settleMarker_frame (c : RemovalCause) (q : Byte) (s : State) :
    (settleMarker c q s).pending = s.pending ∧
    (settleMarker c q s).resetHeld = s.resetHeld ∧
    (settleMarker c q s).period = s.period ∧
    (settleMarker c q s).straps = s.straps ∧
    (settleMarker c q s).live = s.live ∧
    (settleMarker c q s).staged = s.staged ∧
    (settleMarker c q s).banks = s.banks ∧
    (settleMarker c q s).pp = s.pp ∧
    (settleMarker c q s).answer = s.answer ∧
    (settleMarker c q s).mp = s.mp ∧
    (settleMarker c q s).fl = s.fl := by
  simp only [settleMarker]
  repeat' split
  all_goals simp

@[simp] theorem retakeHeld_frame (s : State) :
    (retakeHeld s).pending = s.pending ∧
    (retakeHeld s).resetHeld = s.resetHeld ∧
    (retakeHeld s).period = s.period ∧
    (retakeHeld s).straps = s.straps ∧
    (retakeHeld s).live = s.live ∧
    (retakeHeld s).staged = s.staged ∧
    (retakeHeld s).banks = s.banks ∧
    (retakeHeld s).mp = s.mp ∧
    (retakeHeld s).fl = s.fl ∧
    (retakeHeld s).sl = s.sl := by
  simp only [retakeHeld]
  repeat' split
  all_goals simp

@[simp] theorem removeHead_frame (c : RemovalCause) (s : State) :
    (removeHead c s).pending = s.pending ∧
    (removeHead c s).resetHeld = s.resetHeld ∧
    (removeHead c s).period = s.period ∧
    (removeHead c s).straps = s.straps ∧
    (removeHead c s).live = s.live ∧
    (removeHead c s).staged = s.staged ∧
    (removeHead c s).banks = s.banks ∧
    (removeHead c s).mp = s.mp ∧
    (removeHead c s).fl = s.fl := by
  simp only [removeHead]
  repeat' split
  all_goals simp

@[simp] theorem portBeatDone_frame (a : Access) (t : Txn) (b : Beat) (g : List (Option Byte)) (x y : Byte) (s : State) :
    (portBeatDone a t b g x y s).pending = s.pending ∧
    (portBeatDone a t b g x y s).resetHeld = s.resetHeld ∧
    (portBeatDone a t b g x y s).period = s.period ∧
    (portBeatDone a t b g x y s).straps = s.straps ∧
    (portBeatDone a t b g x y s).live = s.live ∧
    (portBeatDone a t b g x y s).staged = s.staged ∧
    (portBeatDone a t b g x y s).banks = s.banks ∧
    (portBeatDone a t b g x y s).wq = s.wq ∧
    (portBeatDone a t b g x y s).mp = s.mp ∧
    (portBeatDone a t b g x y s).fl = s.fl ∧
    (portBeatDone a t b g x y s).sl = s.sl := by
  simp only [portBeatDone]
  repeat' split
  all_goals simp

@[simp] theorem queueBeatDone_frame (e : QueueEntry) (r : List QueueEntry) (s : State) :
    (queueBeatDone e r s).pending = s.pending ∧
    (queueBeatDone e r s).resetHeld = s.resetHeld ∧
    (queueBeatDone e r s).period = s.period ∧
    (queueBeatDone e r s).straps = s.straps ∧
    (queueBeatDone e r s).live = s.live ∧
    (queueBeatDone e r s).staged = s.staged ∧
    (queueBeatDone e r s).banks = s.banks ∧
    (queueBeatDone e r s).mp = s.mp ∧
    (queueBeatDone e r s).fl = s.fl := by
  simp only [queueBeatDone]
  repeat' split
  all_goals simp

@[simp] theorem ownerBeatDone_frame (b : Beat) (x y : Byte) (s : State) :
    (ownerBeatDone b x y s).pending = s.pending ∧
    (ownerBeatDone b x y s).resetHeld = s.resetHeld ∧
    (ownerBeatDone b x y s).period = s.period ∧
    (ownerBeatDone b x y s).straps = s.straps ∧
    (ownerBeatDone b x y s).live = s.live ∧
    (ownerBeatDone b x y s).staged = s.staged ∧
    (ownerBeatDone b x y s).banks = s.banks ∧
    (ownerBeatDone b x y s).mp = s.mp ∧
    (ownerBeatDone b x y s).fl = s.fl := by
  simp only [ownerBeatDone]
  repeat' split
  all_goals simp

@[simp] theorem raiseTimeout_frame (t : Txn) (b : Beat) (q : Bool) (s : State) :
    (raiseTimeout t b q s).pending = s.pending ∧
    (raiseTimeout t b q s).resetHeld = s.resetHeld ∧
    (raiseTimeout t b q s).period = s.period ∧
    (raiseTimeout t b q s).straps = s.straps ∧
    (raiseTimeout t b q s).live = s.live ∧
    (raiseTimeout t b q s).staged = s.staged ∧
    (raiseTimeout t b q s).banks = s.banks ∧
    (raiseTimeout t b q s).pp = s.pp ∧
    (raiseTimeout t b q s).answer = s.answer ∧
    (raiseTimeout t b q s).wq = s.wq ∧
    (raiseTimeout t b q s).mp = s.mp ∧
    (raiseTimeout t b q s).sl = s.sl := by
  simp only [raiseTimeout]
  repeat' split
  all_goals simp

@[simp] theorem ownerTimeout_frame (t : Txn) (b : Beat) (s : State) :
    (ownerTimeout t b s).pending = s.pending ∧
    (ownerTimeout t b s).resetHeld = s.resetHeld ∧
    (ownerTimeout t b s).period = s.period ∧
    (ownerTimeout t b s).straps = s.straps ∧
    (ownerTimeout t b s).live = s.live ∧
    (ownerTimeout t b s).staged = s.staged ∧
    (ownerTimeout t b s).banks = s.banks ∧
    (ownerTimeout t b s).mp = s.mp := by
  simp only [ownerTimeout]
  repeat' split
  all_goals simp

@[simp] theorem recoveryDone_frame (s : State) :
    (recoveryDone s).pending = s.pending ∧
    (recoveryDone s).resetHeld = s.resetHeld ∧
    (recoveryDone s).period = s.period ∧
    (recoveryDone s).straps = s.straps ∧
    (recoveryDone s).live = s.live ∧
    (recoveryDone s).staged = s.staged ∧
    (recoveryDone s).banks = s.banks ∧
    (recoveryDone s).answer = s.answer ∧
    (recoveryDone s).fl = s.fl ∧
    (recoveryDone s).sl = s.sl := by
  simp only [recoveryDone]
  repeat' split
  all_goals simp

@[simp] theorem afterReport_frame (s : State) :
    (afterReport s).pending = s.pending ∧
    (afterReport s).resetHeld = s.resetHeld ∧
    (afterReport s).period = s.period ∧
    (afterReport s).straps = s.straps ∧
    (afterReport s).live = s.live ∧
    (afterReport s).staged = s.staged ∧
    (afterReport s).banks = s.banks ∧
    (afterReport s).answer = s.answer ∧
    (afterReport s).fl = s.fl ∧
    (afterReport s).sl = s.sl := by
  simp only [afterReport]
  repeat' split
  all_goals simp

@[simp] theorem beatDone_frame (b : Beat) (x y : Byte) (s : State) :
    (beatDone b x y s).pending = s.pending ∧
    (beatDone b x y s).resetHeld = s.resetHeld ∧
    (beatDone b x y s).period = s.period ∧
    (beatDone b x y s).straps = s.straps ∧
    (beatDone b x y s).live = s.live ∧
    (beatDone b x y s).staged = s.staged ∧
    (beatDone b x y s).banks = s.banks ∧
    (beatDone b x y s).fl = s.fl := by
  simp only [beatDone]
  repeat' split
  all_goals simp

@[simp] theorem beatFailed_frame (t : Txn) (b : Beat) (s : State) :
    (beatFailed t b s).pending = s.pending ∧
    (beatFailed t b s).resetHeld = s.resetHeld ∧
    (beatFailed t b s).period = s.period ∧
    (beatFailed t b s).straps = s.straps ∧
    (beatFailed t b s).live = s.live ∧
    (beatFailed t b s).staged = s.staged ∧
    (beatFailed t b s).banks = s.banks := by
  simp only [beatFailed]
  repeat' split
  all_goals simp

@[simp] theorem enterReadyWait_frame (s : State) :
    (enterReadyWait s).pending = s.pending ∧
    (enterReadyWait s).resetHeld = s.resetHeld ∧
    (enterReadyWait s).period = s.period ∧
    (enterReadyWait s).straps = s.straps ∧
    (enterReadyWait s).live = s.live ∧
    (enterReadyWait s).staged = s.staged ∧
    (enterReadyWait s).banks = s.banks ∧
    (enterReadyWait s).pp = s.pp ∧
    (enterReadyWait s).answer = s.answer ∧
    (enterReadyWait s).wq = s.wq ∧
    (enterReadyWait s).fl = s.fl ∧
    (enterReadyWait s).sl = s.sl := by
  simp only [enterReadyWait]
  repeat' split
  all_goals simp

@[simp] theorem answerPort_frame (x : PortAnswer) (s : State) :
    (answerPort x s).pending = s.pending ∧
    (answerPort x s).resetHeld = s.resetHeld ∧
    (answerPort x s).period = s.period ∧
    (answerPort x s).straps = s.straps ∧
    (answerPort x s).live = s.live ∧
    (answerPort x s).staged = s.staged ∧
    (answerPort x s).banks = s.banks ∧
    (answerPort x s).wq = s.wq ∧
    (answerPort x s).mp = s.mp ∧
    (answerPort x s).fl = s.fl ∧
    (answerPort x s).sl = s.sl := by
  simp only [answerPort]
  repeat' split
  all_goals simp

@[simp] theorem refuseAccess_frame (c : FaultCause) (a : Access) (s : State) :
    (refuseAccess c a s).pending = s.pending ∧
    (refuseAccess c a s).resetHeld = s.resetHeld ∧
    (refuseAccess c a s).period = s.period ∧
    (refuseAccess c a s).straps = s.straps ∧
    (refuseAccess c a s).live = s.live ∧
    (refuseAccess c a s).staged = s.staged ∧
    (refuseAccess c a s).banks = s.banks ∧
    (refuseAccess c a s).wq = s.wq ∧
    (refuseAccess c a s).mp = s.mp ∧
    (refuseAccess c a s).sl = s.sl := by
  simp only [refuseAccess]
  repeat' split
  all_goals simp

@[simp] theorem missAccess_frame (a : Access) (s : State) :
    (missAccess a s).pending = s.pending ∧
    (missAccess a s).resetHeld = s.resetHeld ∧
    (missAccess a s).period = s.period ∧
    (missAccess a s).straps = s.straps ∧
    (missAccess a s).live = s.live ∧
    (missAccess a s).staged = s.staged ∧
    (missAccess a s).banks = s.banks ∧
    (missAccess a s).wq = s.wq ∧
    (missAccess a s).mp = s.mp ∧
    (missAccess a s).sl = s.sl := by
  simp only [missAccess]
  repeat' split
  all_goals simp

@[simp] theorem routeAccess_frame (a : Access) (t : Txn) (s : State) :
    (routeAccess a t s).pending = s.pending ∧
    (routeAccess a t s).resetHeld = s.resetHeld ∧
    (routeAccess a t s).period = s.period ∧
    (routeAccess a t s).straps = s.straps ∧
    (routeAccess a t s).live = s.live ∧
    (routeAccess a t s).staged = s.staged ∧
    (routeAccess a t s).banks = s.banks ∧
    (routeAccess a t s).fl = s.fl ∧
    (routeAccess a t s).sl = s.sl := by
  simp only [routeAccess]
  repeat' split
  all_goals simp

@[simp] theorem startExecution_frame (x : Selection) (c : CommandBuffer) (s : State) :
    (startExecution x c s).pending = s.pending ∧
    (startExecution x c s).resetHeld = s.resetHeld ∧
    (startExecution x c s).period = s.period ∧
    (startExecution x c s).straps = s.straps ∧
    (startExecution x c s).live = s.live ∧
    (startExecution x c s).staged = s.staged ∧
    (startExecution x c s).banks = s.banks ∧
    (startExecution x c s).pp = s.pp ∧
    (startExecution x c s).answer = s.answer ∧
    (startExecution x c s).wq = s.wq ∧
    (startExecution x c s).mp = s.mp ∧
    (startExecution x c s).fl = s.fl := by
  simp only [startExecution]
  repeat' split
  all_goals simp

@[simp] theorem endCollection_frame (x : Selection) (st : Status) (r : Receiver) (s : State) :
    (endCollection x st r s).pending = s.pending ∧
    (endCollection x st r s).resetHeld = s.resetHeld ∧
    (endCollection x st r s).period = s.period ∧
    (endCollection x st r s).straps = s.straps ∧
    (endCollection x st r s).live = s.live ∧
    (endCollection x st r s).staged = s.staged ∧
    (endCollection x st r s).banks = s.banks ∧
    (endCollection x st r s).pp = s.pp ∧
    (endCollection x st r s).answer = s.answer ∧
    (endCollection x st r s).wq = s.wq ∧
    (endCollection x st r s).mp = s.mp ∧
    (endCollection x st r s).fl = s.fl := by
  simp only [endCollection]
  repeat' split
  all_goals simp

@[simp] theorem refuseLength_frame (x : Selection) (s : State) :
    (refuseLength x s).pending = s.pending ∧
    (refuseLength x s).resetHeld = s.resetHeld ∧
    (refuseLength x s).period = s.period ∧
    (refuseLength x s).straps = s.straps ∧
    (refuseLength x s).live = s.live ∧
    (refuseLength x s).staged = s.staged ∧
    (refuseLength x s).banks = s.banks ∧
    (refuseLength x s).pp = s.pp ∧
    (refuseLength x s).answer = s.answer ∧
    (refuseLength x s).wq = s.wq ∧
    (refuseLength x s).mp = s.mp ∧
    (refuseLength x s).fl = s.fl := by
  simp only [refuseLength]
  repeat' split
  all_goals simp

@[simp] theorem refuseCheck_frame (x : Selection) (s : State) :
    (refuseCheck x s).pending = s.pending ∧
    (refuseCheck x s).resetHeld = s.resetHeld ∧
    (refuseCheck x s).period = s.period ∧
    (refuseCheck x s).straps = s.straps ∧
    (refuseCheck x s).live = s.live ∧
    (refuseCheck x s).staged = s.staged ∧
    (refuseCheck x s).banks = s.banks ∧
    (refuseCheck x s).pp = s.pp ∧
    (refuseCheck x s).answer = s.answer ∧
    (refuseCheck x s).wq = s.wq ∧
    (refuseCheck x s).mp = s.mp ∧
    (refuseCheck x s).fl = s.fl := by
  simp only [refuseCheck]
  repeat' split
  all_goals simp

@[simp] theorem collect_frame (c : CommandBuffer) (s : State) :
    (collect c s).pending = s.pending ∧
    (collect c s).resetHeld = s.resetHeld ∧
    (collect c s).period = s.period ∧
    (collect c s).straps = s.straps ∧
    (collect c s).live = s.live ∧
    (collect c s).staged = s.staged ∧
    (collect c s).banks = s.banks ∧
    (collect c s).pp = s.pp ∧
    (collect c s).answer = s.answer ∧
    (collect c s).wq = s.wq ∧
    (collect c s).mp = s.mp ∧
    (collect c s).fl = s.fl := by
  simp only [collect]
  repeat' split
  all_goals simp

@[simp] theorem takeOpcode_frame (b : Byte) (s : State) :
    (takeOpcode b s).pending = s.pending ∧
    (takeOpcode b s).resetHeld = s.resetHeld ∧
    (takeOpcode b s).period = s.period ∧
    (takeOpcode b s).straps = s.straps ∧
    (takeOpcode b s).live = s.live ∧
    (takeOpcode b s).staged = s.staged ∧
    (takeOpcode b s).banks = s.banks ∧
    (takeOpcode b s).pp = s.pp ∧
    (takeOpcode b s).answer = s.answer ∧
    (takeOpcode b s).wq = s.wq ∧
    (takeOpcode b s).mp = s.mp ∧
    (takeOpcode b s).fl = s.fl := by
  simp only [takeOpcode]
  repeat' split
  all_goals simp

@[simp] theorem ignoreFrame_frame (s : State) :
    (ignoreFrame s).pending = s.pending ∧
    (ignoreFrame s).resetHeld = s.resetHeld ∧
    (ignoreFrame s).period = s.period ∧
    (ignoreFrame s).straps = s.straps ∧
    (ignoreFrame s).live = s.live ∧
    (ignoreFrame s).staged = s.staged ∧
    (ignoreFrame s).banks = s.banks ∧
    (ignoreFrame s).pp = s.pp ∧
    (ignoreFrame s).answer = s.answer ∧
    (ignoreFrame s).wq = s.wq ∧
    (ignoreFrame s).mp = s.mp ∧
    (ignoreFrame s).fl = s.fl := by
  simp only [ignoreFrame]
  repeat' split
  all_goals simp

@[simp] theorem frameEnded_frame (b : Bool) (s : State) :
    (frameEnded b s).pending = s.pending ∧
    (frameEnded b s).resetHeld = s.resetHeld ∧
    (frameEnded b s).period = s.period ∧
    (frameEnded b s).straps = s.straps ∧
    (frameEnded b s).live = s.live ∧
    (frameEnded b s).staged = s.staged ∧
    (frameEnded b s).banks = s.banks ∧
    (frameEnded b s).pp = s.pp ∧
    (frameEnded b s).answer = s.answer ∧
    (frameEnded b s).wq = s.wq ∧
    (frameEnded b s).mp = s.mp ∧
    (frameEnded b s).fl = s.fl := by
  simp only [frameEnded]
  repeat' split
  all_goals simp

@[simp] theorem setBank_frame (w : Fin 16) (b : Byte) (n : Bool) (s : State) :
    (setBank w b n s).pending = s.pending ∧
    (setBank w b n s).resetHeld = s.resetHeld ∧
    (setBank w b n s).period = s.period ∧
    (setBank w b n s).straps = s.straps ∧
    (setBank w b n s).live = s.live ∧
    (setBank w b n s).staged = s.staged ∧
    (setBank w b n s).pp = s.pp ∧
    (setBank w b n s).answer = s.answer ∧
    (setBank w b n s).wq = s.wq ∧
    (setBank w b n s).mp = s.mp ∧
    (setBank w b n s).fl = s.fl ∧
    (setBank w b n s).sl = s.sl := by
  simp only [setBank]
  repeat' split
  all_goals simp

@[simp] theorem falseStart_frame (s : State) :
    (falseStart s).pending = s.pending ∧
    (falseStart s).resetHeld = s.resetHeld ∧
    (falseStart s).period = s.period ∧
    (falseStart s).straps = s.straps ∧
    (falseStart s).live = s.live ∧
    (falseStart s).staged = s.staged ∧
    (falseStart s).banks = s.banks ∧
    (falseStart s).pp = s.pp ∧
    (falseStart s).answer = s.answer ∧
    (falseStart s).wq = s.wq ∧
    (falseStart s).mp = s.mp ∧
    (falseStart s).fl = s.fl := by
  simp only [falseStart]
  repeat' split
  all_goals simp

@[simp] theorem transmitterPeriod_frame (s : State) :
    (transmitterPeriod s).pending = s.pending ∧
    (transmitterPeriod s).resetHeld = s.resetHeld ∧
    (transmitterPeriod s).period = s.period ∧
    (transmitterPeriod s).straps = s.straps ∧
    (transmitterPeriod s).live = s.live ∧
    (transmitterPeriod s).staged = s.staged ∧
    (transmitterPeriod s).banks = s.banks ∧
    (transmitterPeriod s).pp = s.pp ∧
    (transmitterPeriod s).answer = s.answer ∧
    (transmitterPeriod s).wq = s.wq ∧
    (transmitterPeriod s).mp = s.mp ∧
    (transmitterPeriod s).fl = s.fl := by
  simp only [transmitterPeriod]
  repeat' split
  all_goals simp

end Sys2Proof.Machine
end

