-- ==== Sys2Proof/Laws/Captures.lean ====
section
/-! SUPPORT. What trigger captures and commits can do to the state. -/
namespace Sys2Proof.Machine

/-- Whatever every single capture keeps, the captures of a whole WRITE keep. -/
theorem captureByte_keeps {P : State → Prop} (a : Access) (hstep : ∀ t c j, P t → P (captureOne a c t j))
    (addr : Nat) (c : Byte) (s : State) (h : P s) : P (captureByte a addr c s) := by
  unfold captureByte
  generalize triggerIndices.filter (triggerMatches s.live addr) = l
  induction l generalizing s with
  | nil => exact h
  | cons j l ih => exact ih _ (hstep s c j h)

theorem captureBytes_keeps {P : State → Prop} (a : Access) (hstep : ∀ t c j, P t → P (captureOne a c t j))
    (bytes : List Byte) (addr : Nat) (s : State) (h : P s) : P (captureBytes a addr bytes s) := by
  induction bytes generalizing addr s with
  | nil => exact h
  | cons b bs ih => exact ih _ _ (captureByte_keeps a hstep addr b s h)

theorem captureWrite_keeps {P : State → Prop} (a : Access) (hstep : ∀ t c j, P t → P (captureOne a c t j))
    (s : State) (h : P s) : P (captureWrite a s) := by
  unfold captureWrite
  split
  · exact captureBytes_keeps a hstep _ _ s h
  · exact h
  · exact h

/-- Captures change bank states and the fault log, nothing else. -/
@[simp] theorem captureWrite_frame (a : Access) (s : State) :
    (captureWrite a s).pending = s.pending ∧ (captureWrite a s).resetHeld = s.resetHeld ∧
    (captureWrite a s).period = s.period ∧ (captureWrite a s).straps = s.straps ∧
    (captureWrite a s).live = s.live ∧ (captureWrite a s).staged = s.staged ∧
    (captureWrite a s).pp = s.pp ∧ (captureWrite a s).answer = s.answer ∧ (captureWrite a s).wq = s.wq ∧
    (captureWrite a s).mp = s.mp ∧ (captureWrite a s).sl = s.sl := by
  refine captureWrite_keeps (P := fun t => t.pending = s.pending ∧ t.resetHeld = s.resetHeld ∧
    t.period = s.period ∧ t.straps = s.straps ∧ t.live = s.live ∧ t.staged = s.staged ∧ t.pp = s.pp ∧
    t.answer = s.answer ∧ t.wq = s.wq ∧ t.mp = s.mp ∧ t.sl = s.sl) a ?_ s (by simp)
  intro t c j h
  simpa using h

end Sys2Proof.Machine
end

