-- ==== Sys2Proof/Laws/Services.lean ====
section
/-! SUPPORT. What the service commands can do to the state, and the one way to prove a fact of all of them. -/
namespace Sys2Proof.Machine

/-- A fact of every execution of the opcode table and of BAD_OPCODE holds of the execution any opcode names. -/
theorem serviceOf_keeps {P : (List Byte → State → ServiceResult) → Prop} (hbad : P serviceBadOpcode)
    (h : ∀ e ∈ serviceTable, P e.2) (op : Byte) : P (serviceOf op) := by
  unfold serviceOf
  split
  · exact hbad
  · rename_i e he
    exact h e (List.mem_of_find?_eq_some he)

/-- A fact of BAD_OPCODE under every opcode, and of each execution under its own, holds of the execution an opcode
names, under that opcode. -/
theorem serviceOf_cases {P : Byte → (List Byte → State → ServiceResult) → Prop} (hbad : ∀ op, P op serviceBadOpcode)
    (h : ∀ e ∈ serviceTable, P e.1 e.2) (op : Byte) : P op (serviceOf op) := by
  unfold serviceOf
  split
  · exact hbad op
  · rename_i e he
    have hop : e.1 = op := by simpa using List.find?_some he
    exact hop ▸ h e (List.mem_of_find?_eq_some he)

/-- What an execution may change: the table sets, the bank states, the log, and of queue and link only the
high-water mark, the drain marker and the counters. -/
def ServiceFrame (run : List Byte → State → ServiceResult) : Prop :=
  ∀ p s, (run p s).state.pending = s.pending ∧ (run p s).state.resetHeld = s.resetHeld ∧
    (run p s).state.period = s.period ∧ (run p s).state.straps = s.straps ∧ (run p s).state.pp = s.pp ∧
    (run p s).state.answer = s.answer ∧ (run p s).state.mp = s.mp ∧
    (run p s).state.wq.entries = s.wq.entries ∧ (run p s).state.wq.nextSeq = s.wq.nextSeq ∧
    (run p s).state.sl.receiver = s.sl.receiver ∧ (run p s).state.sl.line = s.sl.line ∧
    (run p s).state.sl.command = s.sl.command ∧ (run p s).state.sl.response = s.sl.response ∧
    (run p s).state.sl.transmitter = s.sl.transmitter ∧ (run p s).state.sl.heldOver = s.sl.heldOver ∧
    (run p s).state.sl.gapTimer = s.sl.gapTimer ∧ (run p s).state.sl.sinceCommand = s.sl.sinceCommand ∧
    (run p s).state.sl.linkIn = s.sl.linkIn ∧ (run p s).state.sl.rxTime = s.sl.rxTime ∧
    (run p s).state.sl.samples = s.sl.samples

theorem serviceIdentify_frame : ServiceFrame serviceIdentify := by
  intro p s; unfold serviceIdentify refuseCommand
  repeat' split
  all_goals simp [ServiceResult.state]
theorem serviceReadWindow_frame : ServiceFrame serviceReadWindow := by
  intro p s; unfold serviceReadWindow refuseCommand
  repeat' split
  all_goals simp [ServiceResult.state]
theorem serviceWriteWindow_frame : ServiceFrame serviceWriteWindow := by
  intro p s; unfold serviceWriteWindow refuseCommand
  repeat' split
  all_goals simp [ServiceResult.state]
theorem serviceReadProfile_frame : ServiceFrame serviceReadProfile := by
  intro p s; unfold serviceReadProfile refuseCommand
  repeat' split
  all_goals simp [ServiceResult.state]
theorem serviceWriteProfile_frame : ServiceFrame serviceWriteProfile := by
  intro p s; unfold serviceWriteProfile refuseCommand
  repeat' split
  all_goals simp [ServiceResult.state]
theorem serviceReadTrigger_frame : ServiceFrame serviceReadTrigger := by
  intro p s; unfold serviceReadTrigger refuseCommand
  repeat' split
  all_goals simp [ServiceResult.state]
theorem serviceWriteTrigger_frame : ServiceFrame serviceWriteTrigger := by
  intro p s; unfold serviceWriteTrigger refuseCommand
  repeat' split
  all_goals simp [ServiceResult.state]
theorem serviceReadGlobals_frame : ServiceFrame serviceReadGlobals := by
  intro p s; unfold serviceReadGlobals refuseCommand
  repeat' split
  all_goals simp [ServiceResult.state]
theorem serviceWriteGlobals_frame : ServiceFrame serviceWriteGlobals := by
  intro p s; unfold serviceWriteGlobals refuseCommand
  repeat' split
  all_goals simp [ServiceResult.state]
theorem serviceCopy_frame : ServiceFrame serviceCopy := by
  intro p s; unfold serviceCopy refuseCommand
  repeat' split
  all_goals simp [ServiceResult.state]
theorem serviceApply_frame : ServiceFrame serviceApply := by
  intro p s; unfold serviceApply refuseCommand
  repeat' split
  all_goals simp [ServiceResult.state]
theorem serviceReadBank_frame : ServiceFrame serviceReadBank := by
  intro p s; unfold serviceReadBank refuseCommand
  repeat' split
  all_goals simp [ServiceResult.state]
theorem serviceSetBank_frame : ServiceFrame serviceSetBank := by
  intro p s; unfold serviceSetBank refuseCommand
  repeat' split
  all_goals simp [ServiceResult.state]
theorem serviceCancel_frame : ServiceFrame serviceCancel := by
  intro p s; unfold serviceCancel refuseCommand
  repeat' split
  all_goals simp [ServiceResult.state]
theorem serviceReadFaults_frame : ServiceFrame serviceReadFaults := by
  intro p s; unfold serviceReadFaults refuseCommand
  repeat' split
  all_goals simp [ServiceResult.state]
theorem serviceRemoveFaults_frame : ServiceFrame serviceRemoveFaults := by
  intro p s; unfold serviceRemoveFaults refuseCommand
  repeat' split
  all_goals simp [ServiceResult.state]
theorem serviceSetAlert_frame : ServiceFrame serviceSetAlert := by
  intro p s; unfold serviceSetAlert refuseCommand
  repeat' split
  all_goals simp [ServiceResult.state]
theorem serviceReadQueue_frame : ServiceFrame serviceReadQueue := by
  intro p s; unfold serviceReadQueue refuseCommand
  repeat' split
  all_goals simp [ServiceResult.state]
theorem serviceDrain_frame : ServiceFrame serviceDrain := by
  intro p s; unfold serviceDrain refuseCommand
  repeat' split
  all_goals simp [ServiceResult.state]
theorem serviceLinkStatus_frame : ServiceFrame serviceLinkStatus := by
  intro p s; unfold serviceLinkStatus refuseCommand
  repeat' split
  all_goals simp [ServiceResult.state]
theorem serviceBadOpcode_frame : ServiceFrame serviceBadOpcode := by
  intro p s; simp [serviceBadOpcode, refuseCommand, ServiceResult.state]

theorem serviceOf_frame (op : Byte) : ServiceFrame (serviceOf op) := by
  refine serviceOf_keeps serviceBadOpcode_frame ?_ op
  simp only [serviceTable, List.forall_mem_cons, List.not_mem_nil, false_implies, implies_true, and_true]
  exact ⟨serviceIdentify_frame, serviceReadWindow_frame, serviceWriteWindow_frame, serviceReadProfile_frame,
    serviceWriteProfile_frame, serviceReadTrigger_frame, serviceWriteTrigger_frame, serviceReadGlobals_frame,
    serviceWriteGlobals_frame, serviceCopy_frame, serviceApply_frame, serviceReadBank_frame,
    serviceSetBank_frame, serviceCancel_frame, serviceReadFaults_frame, serviceRemoveFaults_frame,
    serviceSetAlert_frame, serviceReadQueue_frame, serviceDrain_frame, serviceLinkStatus_frame⟩

/-- R169: only DRAIN's execution waits, and only without a payload. -/
theorem waits_isDrain {op : Byte} {p : List Byte} {s t : State} (h : serviceOf op p s = .waiting t) :
    op = opDrain ∧ p = [] := by
  revert h
  refine serviceOf_cases (P := fun op run => run p s = .waiting t → op = opDrain ∧ p = []) ?_ ?_ op
  · intro op h; cases h
  · simp only [serviceTable, List.forall_mem_cons, List.not_mem_nil, false_implies, implies_true, and_true]
    simp only [serviceIdentify, serviceReadWindow, serviceWriteWindow, serviceReadProfile, serviceWriteProfile,
      serviceReadTrigger, serviceWriteTrigger, serviceReadGlobals, serviceWriteGlobals, serviceCopy, serviceApply,
      serviceReadBank, serviceSetBank, serviceCancel, serviceReadFaults, serviceRemoveFaults, serviceSetAlert,
      serviceReadQueue, serviceDrain, serviceLinkStatus, refuseCommand, true_and]
    and_intros
    all_goals intro h
    all_goals repeat' split at h
    all_goals cases h
    all_goals rfl

/-- What an execution keeps together with its start and its end, a whole service command keeps. -/
theorem carryOut_keeps {P : State → Prop} {run : List Byte → State → ServiceResult} {sel : Selection}
    {c : CommandBuffer} {s : State} (hstart : P (startExecution sel c s))
    (hrun : ∀ p u, P u → P (run p u).state) (hend : ∀ st p u, P u → P (finishExecution st p u)) :
    P (carryOut run sel c s) := by
  have := hrun c.payload _ hstart
  unfold carryOut
  split
  all_goals rename_i he
  all_goals rw [he] at this
  · exact hend _ _ _ this
  · exact this

end Sys2Proof.Machine
end

