-- ==== Sys2Proof/Laws/Banks.lean ====
section
/-! SUPPORT. Bank states place by place, and the changes that keep them sound (R56). -/
namespace Sys2Proof.Machine

/-- The windows are listed under their own indices. -/
theorem windowIndices_get : ∀ i : Fin 16, windowIndices[i] = i := by
  decide

theorem banksOf_get (f : Fin 16 → Option BankState) (i : Fin 16) : (banksOf f)[i] = f i := by
  have h : (banksOf f)[i] = (windowIndices.map f)[i.val]'(by rw [List.length_map]; exact i.isLt) := rfl
  rw [h, List.getElem_map]
  exact congrArg f (windowIndices_get i)

theorem updateBank_get (w i : Fin 16) (f : BankState → BankState) (b : Banks) :
    (updateBank w f b)[i] = if w = i then b[i].map f else b[i] := by
  simp only [updateBank, Fin.getElem_fin, Vector.getElem_set]
  by_cases h : w = i
  · subst h; simp
  · have : w.val ≠ i.val := fun hv => h (Fin.ext hv)
    simp [this, h]

theorem BankState.sound_setBy {w : WindowEntry} {k : BankState} (h : k.sound w) {b : Byte}
    (hb : b.toNat < w.bankCount) : (k.setBy w.policy b).sound w := by
  obtain ⟨h1, h2, h3⟩ := h
  unfold BankState.setBy
  split
  · exact ⟨hb, h2, h3⟩
  · rename_i hp
    exact ⟨h1, by simp [hb], by simp [hp]⟩
  · rename_i hp
    exact ⟨h1, by simp [hb], by simp [hp]⟩

theorem BankState.sound_commit {w : WindowEntry} {k : BankState} (h : k.sound w) : k.commit.sound w := by
  unfold BankState.commit
  split
  · exact h
  · rename_i p hp
    exact ⟨h.2.1 p hp, by simp, fun _ => rfl⟩

theorem BankState.sound_setNow {w : WindowEntry} {k : BankState} {b : Byte}
    (hb : b.toNat < w.bankCount) : (k.setNow b).sound w :=
  ⟨hb, by simp [BankState.setNow], fun _ => rfl⟩

theorem BankState.sound_cancel {w : WindowEntry} {k : BankState} (h : k.sound w) : k.cancel.sound w :=
  ⟨h.1, by simp [BankState.cancel], fun _ => rfl⟩

/-- Changing one window's bank state soundly keeps the bank states sound. -/
theorem BanksSound.update {s : State} (h : BanksSound s) (w : Fin 16) (f : BankState → BankState)
    (hf : ∀ k, k.sound s.live.windows[w] → (f k).sound s.live.windows[w]) :
    BanksSound (s.setBanks (updateBank w f s.banks)) := by
  intro i
  obtain ⟨h1, h2⟩ := h i
  simp only [State.setBanks_banks, State.setBanks_live, updateBank_get]
  by_cases hw : w = i
  · subst hw
    simp only [if_true]
    refine ⟨by simpa using h1, ?_⟩
    intro k hk
    rw [Option.map_eq_some_iff] at hk
    obtain ⟨k0, hk0, rfl⟩ := hk
    exact hf k0 (h2 k0 hk0)
  · simp only [hw, if_false]
    exact ⟨h1, h2⟩

/-- One capture keeps the bank states sound (R61, R65). -/
theorem BanksSound.captureOne {s : State} (h : BanksSound s) (a : Access) (c : Byte) (j : Fin 4) :
    BanksSound (captureOne a c s j) := by
  unfold Machine.captureOne
  split
  · rename_i hc
    exact h.update _ _ fun k hk => BankState.sound_setBy hk hc
  · simpa [BanksSound] using h

/-- The commits of an arrival commit a window or leave it (R66, R68, R70). -/
theorem banksAtArrival_get (s : State) (a : Access) (r : DecodeResult) (i : Fin 16) :
    (banksAtArrival s a r)[i] = s.banks[i] ∨ (banksAtArrival s a r)[i] = s.banks[i].map BankState.commit := by
  unfold banksAtArrival
  cases a.kind with
  | fetch =>
    show (commitForFetch s.live a.start r s.banks)[i] = s.banks[i] ∨
      (commitForFetch s.live a.start r s.banks)[i] = s.banks[i].map BankState.commit
    rw [commitForFetch, banksOf_get]
    split
    · exact Or.inr rfl
    · exact Or.inl rfl
  | read => exact Or.inl rfl
  | write => exact Or.inl rfl

/-- The commits of an arrival keep the bank states sound (R66). -/
theorem BanksSound.atArrival {s : State} (h : BanksSound s) (a : Access) (r : DecodeResult) :
    BanksSound (s.setBanks (banksAtArrival s a r)) := by
  intro i
  obtain ⟨h1, h2⟩ := h i
  simp only [State.setBanks_banks, State.setBanks_live]
  rcases banksAtArrival_get s a r i with he | he
  · rw [he]
    exact ⟨h1, h2⟩
  · rw [he]
    refine ⟨by simpa using h1, ?_⟩
    intro k hk
    rw [Option.map_eq_some_iff] at hk
    obtain ⟨k0, hk0, rfl⟩ := hk
    exact BankState.sound_commit (h2 k0 hk0)

theorem mem_windowIndices (i : Fin 16) : i ∈ windowIndices := by
  revert i
  decide

/-- A valid BANKED window of a set that passes validation has its initial bank below its bank count (R47). -/
theorem initialBank_of_valid {t : TableSet} (h : validate t = none) {i : Fin 16}
    (hb : t.windows[i].isBanked = true) : t.windows[i].initialBank.toNat < t.windows[i].bankCount := by
  unfold validate at h
  split at h
  · cases h
  · rename_i hw
    rw [List.findSome?_eq_none_iff] at hw
    have hi := hw i (mem_windowIndices i)
    simp only [Option.map_eq_none_iff] at hi
    unfold windowFault at hi
    simp only [WindowEntry.isBanked, Bool.and_eq_true, beq_iff_eq] at hb
    rw [if_pos hb.1] at hi
    repeat' split at hi
    all_goals first | cases hi | skip
    rename_i h4 _
    have : ¬ t.windows[i].bankCount ≤ t.windows[i].initialBank.toNat := fun hc => h4 ⟨hb.2, hc⟩
    omega

/-- A successful APPLY_TABLE leaves sound bank states (R52). -/
theorem BanksSound.applied {s : State} (h : validate s.staged = none) : BanksSound (applyStaged s) := by
  intro i
  simp only [applyStaged, State.setBanks_banks, State.setBanks_live, State.setLive_live, initialBanks, banksOf_get]
  split
  · rename_i hb
    refine ⟨hb.symm, ?_⟩
    intro k hk
    cases hk
    exact ⟨initialBank_of_valid h hb, by simp, fun _ => rfl⟩
  · rename_i hb
    refine ⟨(Bool.eq_false_iff.mpr hb).symm, by simp⟩

end Sys2Proof.Machine
end

