-- ==== Sys2Proof/Laws/Input.lean ====
section
/-! SUPPORT. No service command and no frame taken looks at the level on the link input. -/
namespace Sys2Proof.Machine

/-- The state with another level standing on the link input. -/
def State.withInput (b : Bool) (s : State) : State :=
  s.setSl { s.sl with linkIn := b }

@[simp] theorem State.withInput_live (b : Bool) (s : State) : (s.withInput b).live = s.live := rfl
@[simp] theorem State.withInput_staged (b : Bool) (s : State) : (s.withInput b).staged = s.staged := rfl
@[simp] theorem State.withInput_banks (b : Bool) (s : State) : (s.withInput b).banks = s.banks := rfl
@[simp] theorem State.withInput_wq (b : Bool) (s : State) : (s.withInput b).wq = s.wq := rfl
@[simp] theorem State.withInput_receiver (b : Bool) (s : State) :
    (s.withInput b).sl.receiver = s.sl.receiver := rfl
@[simp] theorem State.withInput_command (b : Bool) (s : State) : (s.withInput b).sl.command = s.sl.command := rfl

/-- An execution's end with another level standing on the link input. -/
def ServiceResult.withInput (b : Bool) : ServiceResult → ServiceResult
  | .ended s st p => .ended (s.withInput b) st p
  | .waiting s => .waiting (s.withInput b)

theorem setBank_withInput (b : Bool) (w : Fin 16) (k : Byte) (now : Bool) (s : State) :
    setBank w k now (s.withInput b) = (setBank w k now s).withInput b := by
  cases now <;> rfl

/-- No execution looks at the link input. -/
theorem serviceOf_withInput (op : Byte) (b : Bool) (p : List Byte) (s : State) :
    serviceOf op p (s.withInput b) = (serviceOf op p s).withInput b := by
  refine serviceOf_keeps (P := fun run => run p (s.withInput b) = (run p s).withInput b) rfl ?_ op
  simp only [serviceTable, List.forall_mem_cons, List.not_mem_nil, false_implies, implies_true, and_true]
  simp only [serviceIdentify, serviceReadWindow, serviceWriteWindow, serviceReadProfile, serviceWriteProfile,
    serviceReadTrigger, serviceWriteTrigger, serviceReadGlobals, serviceWriteGlobals, serviceCopy, serviceApply,
    serviceReadBank, serviceSetBank, serviceCancel, serviceReadFaults, serviceRemoveFaults, serviceSetAlert,
    serviceReadQueue, serviceDrain, serviceLinkStatus, refuseCommand, setBank_withInput, State.withInput_live,
    State.withInput_staged, State.withInput_banks, State.withInput_wq]
  and_intros
  all_goals repeat' split
  all_goals try simp_all only [if_true]
  all_goals repeat' split
  all_goals first
    | rfl
    | simp_all [ServiceResult.withInput]

theorem finish_withInput (b : Bool) (l : ServiceLink) (st : Straps) (status : Status) (p : List Byte) :
    ServiceLink.finish { l with linkIn := b } st status p = { ServiceLink.finish l st status p with linkIn := b } := by
  unfold ServiceLink.finish
  dsimp only
  split <;> rfl

theorem carryOut_withInput (b : Bool) (op : Byte) (sel : Selection) (c : CommandBuffer) (s : State) :
    carryOut (serviceOf op) sel c (s.withInput b) = (carryOut (serviceOf op) sel c s).withInput b := by
  have h : startExecution sel c (s.withInput b) = (startExecution sel c s).withInput b := rfl
  unfold carryOut
  rw [h, serviceOf_withInput]
  cases serviceOf op c.payload (startExecution sel c s) with
  | ended t status p => exact congrArg t.setSl (finish_withInput b t.sl t.straps status p)
  | waiting t => rfl

theorem refuseLength_withInput (b : Bool) (sel : Selection) (s : State) :
    refuseLength sel (s.withInput b) = (refuseLength sel s).withInput b := by
  cases sel <;> rfl

theorem refuseCheck_withInput (b : Bool) (sel : Selection) (s : State) :
    refuseCheck sel (s.withInput b) = (refuseCheck sel s).withInput b := by
  cases sel <;> rfl

theorem takeData_withInput (b : Bool) (d : Byte) (s : State) :
    takeData d (s.withInput b) = (takeData d s).withInput b := by
  unfold takeData takeNext takeCheck
  rw [State.withInput_receiver, State.withInput_command]
  repeat' split
  all_goals first
    | rfl
    | exact carryOut_withInput b _ _ _ s
    | exact refuseLength_withInput b _ s
    | exact refuseCheck_withInput b _ s

theorem takeAddress_withInput (b : Bool) (v : Byte) (s : State) :
    takeAddress v (s.withInput b) = (takeAddress v s).withInput b := by
  unfold takeAddress abandonDrain State.withInput
  simp only [State.setSl_sl]
  split
  · rfl
  all_goals split <;> rfl

theorem takeBreak_withInput (b : Bool) (s : State) : takeBreak (s.withInput b) = (takeBreak s).withInput b := by
  unfold takeBreak abandonDrain State.withInput
  simp only [State.setSl_sl]
  split <;> rfl

/-- What a frame does when it is taken does not depend on the level on the link input. -/
theorem takeFrame_withInput (b : Bool) (k : FrameKind) (s : State) :
    takeFrame k (s.withInput b) = (takeFrame k s).withInput b := by
  cases k with
  | address v => exact takeAddress_withInput b v s
  | data d => exact takeData_withInput b d s
  | linkBreak => exact takeBreak_withInput b s
  | framingError => rfl

end Sys2Proof.Machine
end

