-- ==== Sys2Proof/Laws/Queue.lean ====
section
/-! SUPPORT. Admission and removal keep the queue's numbering and bounds (R122 to R124). -/
namespace Sys2Proof.Machine

theorem numberedFrom_append {e : QueueEntry} : ∀ {l : List QueueEntry} {h n : Byte}, numberedFrom h l n →
    e.seq = n → e.txn.origin = .queue n → numberedFrom h (l ++ [e]) (n + 1)
  | [], h, n, hl, h1, h2 => by
    simp only [numberedFrom] at hl
    subst hl
    exact ⟨h1, h2, rfl⟩
  | _ :: _, _, _, hl, h1, h2 => ⟨hl.1, hl.2.1, numberedFrom_append hl.2.2 h1 h2⟩

/-- R123: the number that follows the last is the first plus the depth. -/
theorem numberedFrom_end : ∀ {l : List QueueEntry} {h n : Byte}, numberedFrom h l n →
    n = h + BitVec.ofNat 8 l.length
  | [], h, n, hl => by
    simp only [numberedFrom] at hl
    subst hl
    simp
  | _ :: rest, h, n, hl => by
    rw [numberedFrom_end hl.2.2]
    apply BitVec.eq_of_toNat_eq
    have : (1 : Byte).toNat = 1 := rfl
    simp only [BitVec.toNat_add, BitVec.toNat_ofNat, List.length_cons, this]
    omega

theorem headSeq_of_numbered {q : WriteQueue} {h : Byte} (hn : numberedFrom h q.entries q.nextSeq) :
    headSeq q = h := by
  unfold headSeq
  split
  · rename_i he; rw [he] at hn; exact hn.symm
  · rename_i e rest he; rw [he] at hn; exact hn.1

/-- An admission into a queue with room keeps it sound (R123, R124, R125). -/
theorem QueueSound.enqueue {q : WriteQueue} (h : QueueSound q) (t : Txn) (hl : q.entries.length < queueCapacity) :
    QueueSound (q.enqueue t) := by
  obtain ⟨h1, h2, h3⟩ := h
  have hn : numberedFrom (headSeq q) (q.enqueue t).entries (q.enqueue t).nextSeq :=
    numberedFrom_append h3 rfl rfl
  refine ⟨?_, ?_, ?_⟩
  · simp only [WriteQueue.enqueue, List.length_append, List.length_cons, List.length_nil]
    omega
  · simp only [WriteQueue.enqueue]
    simp only [queueCapacity] at *
    omega
  · rw [headSeq_of_numbered hn]
    exact hn

/-- R123: an admission leaves the number of the head as READ_QUEUE reports it. -/
theorem headSeq_enqueue (q : WriteQueue) (t : Txn) : headSeq (q.enqueue t) = headSeq q := by
  unfold headSeq WriteQueue.enqueue
  cases q.entries with
  | nil => rfl
  | cons e rest => rfl

/-- The removal of the head keeps the queue sound (R122, R128). -/
theorem QueueSound.tail {q : WriteQueue} (h : QueueSound q) {e : QueueEntry} {rest : List QueueEntry}
    (he : q.entries = e :: rest) : QueueSound { q with entries := rest } := by
  obtain ⟨h1, h2, h3⟩ := h
  rw [he] at h1 h3
  have hn : numberedFrom (headSeq q + 1) rest q.nextSeq := h3.2.2
  refine ⟨?_, h2, ?_⟩
  · simp only [List.length_cons] at h1
    simp only
    omega
  · rw [headSeq_of_numbered (q := { q with entries := rest }) hn]
    exact hn

/-- Replacing the head by an entry of the same number and origin keeps the queue sound. -/
theorem QueueSound.head {q : WriteQueue} (h : QueueSound q) {e f : QueueEntry} {rest : List QueueEntry}
    (he : q.entries = e :: rest) (hs : f.seq = e.seq) (ho : f.txn.origin = e.txn.origin) :
    QueueSound { q with entries := f :: rest } := by
  obtain ⟨h1, h2, h3⟩ := h
  rw [he] at h1 h3
  have hn : numberedFrom (headSeq q) (f :: rest) q.nextSeq := ⟨hs.trans h3.1, ho.trans h3.2.1, h3.2.2⟩
  refine ⟨h1, h2, ?_⟩
  rw [headSeq_of_numbered (q := { q with entries := f :: rest }) hn]
  exact hn

/-- Neither the marker nor a mark between the depth and the capacity bears on the rest (R124, R136). -/
theorem QueueSound.marked {q : WriteQueue} (h : QueueSound q) (m : Option DrainMarker) :
    QueueSound { q with marker := m } := h

theorem QueueSound.cleared {q : WriteQueue} (h : QueueSound q) :
    QueueSound { q with highWater := q.entries.length } :=
  ⟨Nat.le_refl _, Nat.le_trans h.1 h.2.1, h.2.2⟩

theorem QueueSound.arbitrated {s : State} (h : QueueSound s.wq) : QueueSound (arbitrate s).wq := by
  have hg : QueueSound (grantHead s).wq := by
    unfold grantHead
    split
    · exact h
    · rename_i e rest he
      split
      · exact h.head (f := e.serve) he rfl rfl
      · exact h
      · exact h
  have hp : ∀ a t, QueueSound (grantPort a t s).wq := by intro a t; simpa using h
  unfold arbitrate
  repeat' split
  all_goals first | exact h | exact hg | exact hp _ _

theorem QueueSound.settled {s : State} (h : QueueSound s.wq) (c : RemovalCause) (n : Byte) :
    QueueSound (settleMarker c n s).wq := by
  unfold settleMarker
  split
  · exact h
  · split
    · rw [(finishExecution_frame _ _ _).2.2.2.2.2.2.2.2.2.1]
      exact h.marked _
    · exact h.marked _

theorem settleMarker_entries (c : RemovalCause) (n : Byte) (s : State) :
    (settleMarker c n s).wq.entries = s.wq.entries := by
  unfold settleMarker
  repeat' split
  all_goals simp

theorem QueueSound.retaken {s : State} (h : QueueSound s.wq) (hl : s.wq.entries.length < queueCapacity) :
    QueueSound (retakeHeld s).wq := by
  unfold retakeHeld
  repeat' split
  all_goals first | simpa using h | simpa [admitWrite] using h.enqueue _ hl

/-- R128, R129: a removal with all that belongs to it keeps the queue sound. -/
theorem QueueSound.removed {s : State} (h : QueueSound s.wq) (c : RemovalCause) :
    QueueSound (removeHead c s).wq := by
  unfold removeHead
  split
  · exact h
  · rename_i e rest he
    have h1 := (h.tail he)
    apply QueueSound.retaken
    · exact QueueSound.settled (by simpa using h1) _ _
    · rw [settleMarker_entries]
      have h2 := h.1
      have h3 := h.2.1
      rw [he, List.length_cons] at h2
      simp only [State.setWq_wq]
      omega

theorem QueueSound.ownerDone {s : State} (h : QueueSound s.wq) (b : Beat) (x y : Byte) :
    QueueSound (ownerBeatDone b x y s).wq := by
  unfold ownerBeatDone
  split
  · exact h
  · split
    · simpa using h
    · exact h
    · exact h
  · split
    · exact h
    · rename_i e rest he
      unfold queueBeatDone
      split
      · exact h.removed _
      · exact h.head (f := { e with txn := e.txn.advance }) he rfl rfl

theorem QueueSound.ownerTimedOut {s : State} (h : QueueSound s.wq) (t : Txn) (b : Beat) :
    QueueSound (ownerTimeout t b s).wq := by
  unfold ownerTimeout
  repeat' split
  all_goals first
    | simpa using h
    | exact QueueSound.removed (by simpa using h) _

theorem QueueSound.recovered {s : State} (h : QueueSound s.wq) : QueueSound (recoveryDone s).wq := by
  unfold recoveryDone
  repeat' split
  all_goals first
    | simpa using h
    | exact QueueSound.arbitrated (by simpa using h)

theorem QueueSound.reported {s : State} (h : QueueSound s.wq) : QueueSound (afterReport s).wq := by
  unfold afterReport
  split
  · exact h.recovered
  · exact h

end Sys2Proof.Machine
end

