-- ==== Sys2Proof/Laws/Link.lean ====
section
/-! SUPPORT. Responses, conversations and drain markers: what keeps them sound (R138, R162 to R171). -/
namespace Sys2Proof.Machine

theorem byteSum_append : ∀ l k : List Byte, byteSum (l ++ k) = byteSum l + byteSum k
  | [], k => by simp [byteSum]
  | b :: l, k => by
    show b + byteSum (l ++ k) = b + byteSum l + byteSum k
    rw [byteSum_append l k, BitVec.add_assoc]

/-- R170, R196: the frames of every response the part makes sum to 0 modulo 256. -/
theorem makeResponse_sum (st : Status) (p : List Byte) : byteSum (makeResponse st p).frames = 0 := by
  simp only [makeResponse, Response.frames, byteSum_append, byteSum]
  generalize byteSum p = x
  generalize st.code = y
  generalize BitVec.ofNat 8 p.length = z
  apply BitVec.eq_of_toNat_eq
  have h0 : (0 : Byte).toNat = 0 := rfl
  simp only [BitVec.toNat_add, BitVec.toNat_sub, h0]
  omega

theorem makeResponse_sound (st : Status) {p : List Byte} (h : p.length ≤ maxPayload) :
    (makeResponse st p).sound :=
  ⟨h, makeResponse_sum st p⟩

theorem frames_length (r : Response) : r.frames.length = r.payload.length + 3 := by
  simp [Response.frames]

/-- An addressed unit that ends a command without a marker has a sound response under way (R170). -/
theorem LinkSound.responding (l : ServiceLink) (st : Straps) (status : Status) {p : List Byte}
    (hp : p.length ≤ maxPayload) (hh : l.heldOver = none) : LinkSound (l.respond st status p) none := by
  refine ⟨rfl, rfl, rfl, ?_⟩
  unfold SendingSound ServiceLink.respond
  dsimp only
  split
  · rename_i r hr ht
    cases hr
    exact ⟨makeResponse_sound status hp, hh⟩
  · rename_i r k b x hr ht
    cases hr
    split at ht
    · cases ht
      refine ⟨makeResponse_sound status hp, ?_, by omega⟩
      simp [frames_length]
    · cases ht
  · rename_i hr ht
    split at ht
    all_goals cases ht
  · rename_i hr
    cases hr

/-- R169, R170, R172: the end of an execution leaves a sound link without a marker. -/
theorem LinkSound.finished {l : ServiceLink} {sel : Selection} (st : Straps) (status : Status) {p : List Byte}
    (hr : l.receiver = .executing sel) (h1 : l.response = none) (h2 : l.transmitter = .off)
    (h3 : l.heldOver = none) (hp : p.length ≤ maxPayload) : LinkSound (l.finish st status p) none := by
  unfold ServiceLink.finish
  cases sel with
  | addressed =>
    rw [hr]
    exact LinkSound.responding l st status hp h3
  | broadcast =>
    rw [hr]
    exact ⟨h1, h2, h3, rfl, rfl, by simp [ServiceLink.returnToBroadcast]⟩

/-- R138: the removal of the head e, marked or not, keeps marker and link sound, and ends the DRAIN that waited
for it alone. -/
theorem settleMarker_sound {s : State} {q : WriteQueue} {e : QueueEntry} {rest : List QueueEntry}
    (hq : QueueSound q) (he : q.entries = e :: rest) (hd : DrainSound q) (hl : LinkSound s.sl q.marker)
    (hs : s.wq = { q with entries := rest }) (c : RemovalCause) :
    DrainSound (settleMarker c e.seq s).wq ∧
      LinkSound (settleMarker c e.seq s).sl (settleMarker c e.seq s).wq.marker := by
  have hm : s.wq.marker = q.marker := by rw [hs]
  have hn := hq.2.2
  rw [he] at hn
  have hseq : e.seq = headSeq q := hn.1
  have htail : headSeq { q with entries := rest } = headSeq q + 1 :=
    headSeq_of_numbered (q := { q with entries := rest }) hn.2.2
  unfold settleMarker
  split
  · rename_i hnone
    rw [hnone] at hm
    refine ⟨?_, ?_⟩
    · intro m hmm
      rw [hnone] at hmm
      cases hmm
    · rw [hnone, hm]
      exact hl
  · rename_i m hsome
    rw [hsome] at hm
    obtain ⟨a1, a2, a3, a4, a5⟩ := hd m hm.symm
    rw [he, List.length_cons] at a3
    simp only [queueCapacity] at a2
    split
    · refine ⟨?_, ?_⟩
      · intro m' hm'
        simp at hm'
      · simp only [finishExecution, State.setSl_sl, State.setSl_wq, State.setWq_sl, State.setWq_wq]
        rw [← hm] at hl
        revert hl
        unfold LinkSound
        split
        · intro h; exact absurd h.2.2.2.2.2 (by simp)
        · intro h; exact absurd h.2.2.2.1 (by simp)
        · rename_i sel hr
          intro h
          have := LinkSound.finished s.straps .ok (p := [BitVec.ofNat 8 (m.count c e.seq).marked,
            BitVec.ofNat 8 (m.count c e.seq).completed, BitVec.ofNat 8 (m.count c e.seq).timedOut])
            hr h.1 h.2.1 h.2.2.1 (by simp [maxPayload])
          exact this
        · intro h; exact absurd h.2.2.1 (by simp)
    · rename_i hne
      have hk : m.completed + m.timedOut + 1 < m.marked := by
        by_cases hk : m.completed + m.timedOut + 1 < m.marked
        · exact hk
        · exfalso
          apply hne
          rw [hseq, a4, a5]
          have : m.completed + m.timedOut = m.marked - 1 := by omega
          rw [this]
      have hin : m.contains e.seq = true := by
        rw [hseq, a4]
        unfold DrainMarker.contains
        rw [a5]
        have e1 : ∀ x y : Byte, x + y - x = y := by
          intro x y
          apply BitVec.eq_of_toNat_eq
          simp only [BitVec.toNat_sub, BitVec.toNat_add]
          omega
        rw [e1, e1]
        simp only [BitVec.toNat_ofNat, decide_eq_true_eq]
        omega
      refine ⟨?_, ?_⟩
      · intro m' hm'
        simp only [State.setWq_wq, Option.some.injEq] at hm'
        subst hm'
        have hcount : (m.count c e.seq).completed + (m.count c e.seq).timedOut = m.completed + m.timedOut + 1 ∧
            (m.count c e.seq).marked = m.marked ∧ (m.count c e.seq).first = m.first ∧
            (m.count c e.seq).last = m.last := by
          unfold DrainMarker.count
          rw [if_pos hin]
          cases c
          · exact ⟨by simp only; omega, rfl, rfl, rfl⟩
          · exact ⟨by simp only; omega, rfl, rfl, rfl⟩
        obtain ⟨c1, c2, c3, c4⟩ := hcount
        refine ⟨by omega, by simp only [queueCapacity]; omega, ?_, ?_, ?_⟩
        · simp only [State.setWq_wq, hs]
          omega
        · simp only [State.setWq_wq, hs]
          have : headSeq { q with entries := rest, marker := some (m.count c e.seq) } =
              headSeq { q with entries := rest } := rfl
          rw [this, htail, a4, c1, c3]
          apply BitVec.eq_of_toNat_eq
          have h1 : (1 : Byte).toNat = 1 := rfl
          simp only [BitVec.toNat_add, BitVec.toNat_ofNat, h1]
          omega
        · rw [c2, c3, c4]
          exact a5
      · rw [← hm] at hl
        simp only [State.setWq_sl, State.setWq_wq]
        revert hl
        unfold LinkSound
        split
        · intro h; exact absurd h.2.2.2.2.2 (by simp)
        · intro h; exact absurd h.2.2.2.1 (by simp)
        · intro h; exact ⟨h.1, h.2.1, h.2.2.1, h.2.2.2.1, rfl, h.2.2.2.2.2⟩
        · intro h; exact absurd h.2.2.1 (by simp)

/-- R126, R138: an admission is not marked; it keeps a marker sound. -/
theorem DrainSound.enqueue {q : WriteQueue} (h : DrainSound q) (t : Txn) : DrainSound (q.enqueue t) := by
  intro m hm
  obtain ⟨a1, a2, a3, a4, a5⟩ := h m hm
  refine ⟨a1, a2, ?_, ?_, a5⟩
  · simp only [WriteQueue.enqueue, List.length_append, List.length_cons, List.length_nil]
    omega
  · rw [headSeq_enqueue]
    exact a4

/-- Marker and link are sound together. -/
def Conversation (s : State) : Prop :=
  DrainSound s.wq ∧ LinkSound s.sl s.wq.marker

theorem Conversation.retaken {s : State} (h : Conversation s) : Conversation (retakeHeld s) := by
  unfold retakeHeld
  repeat' split
  all_goals first
    | exact h
    | exact ⟨h.1.enqueue _, h.2⟩

/-- R128, R129: a removal keeps marker and link sound. -/
theorem Conversation.removed {s : State} (h : Conversation s) (hq : QueueSound s.wq) (c : RemovalCause) :
    Conversation (removeHead c s) := by
  unfold removeHead
  split
  · exact h
  · rename_i e rest he
    exact Conversation.retaken
      (settleMarker_sound (s := s.setWq { s.wq with entries := rest }) hq he h.1 h.2 rfl c)

/-- R166: the running sum of a payload frame. -/
theorem CommandBuffer.sound_payload {c : CommandBuffer} {n : Byte} (h : c.sound) (hl : c.length = some n)
    (hc : c.complete = false) (b : Byte) :
    ({ c with payload := c.payload ++ [b], sum := c.sum + b } : CommandBuffer).sound := by
  unfold CommandBuffer.sound at h
  unfold CommandBuffer.complete at hc
  rw [hl] at h hc
  unfold CommandBuffer.sound
  simp only [hl] at h hc ⊢
  simp only [decide_eq_false_iff_not] at hc
  refine ⟨h.1, ?_, ?_⟩
  · rw [List.length_append]
    simp only [List.length_cons, List.length_nil]
    omega
  · rw [byteSum_append, h.2.2]
    simp only [byteSum, BitVec.add_assoc]
    congr 3
    simp

theorem carryOut_gapTimer (op : Byte) (sel : Selection) (c : CommandBuffer) (s : State) :
    (carryOut (serviceOf op) sel c s).sl.gapTimer = none := by
  refine carryOut_keeps (P := fun t => t.sl.gapTimer = none) rfl ?_ ?_
  · intro p u hu
    rw [(serviceOf_frame op p u).2.2.2.2.2.2.2.2.2.2.2.2.2.2.2.1]
    exact hu
  · intro st p u hu
    show (ServiceLink.finish _ _ _ _).gapTimer = none
    unfold ServiceLink.finish
    split
    all_goals first
      | exact hu
      | rfl

theorem endCollection_gapTimer (sel : Selection) (st : Status) (r : Receiver) (s : State) :
    (endCollection sel st r s).sl.gapTimer = none := by
  cases sel <;> rfl

/-- R166, R168: a frame taken stops the gap timer, leaves it stopped, or restarts it. -/
theorem takeFrame_gapTimer {s : State} (h : LinkSound s.sl s.wq.marker) (k : FrameKind) (n : Nat)
    (hn : (takeFrame k s).sl.gapTimer = some n) : n = 0 := by
  unfold LinkSound at h
  cases k with
  | address v =>
    simp only [takeFrame, takeAddress] at hn
    split at hn
    · simp only [State.setSl_sl] at hn
      split at h <;> simp_all
    all_goals cases hn
  | data d =>
    simp only [takeFrame, takeData, takeNext, takeCheck] at hn
    repeat' split at hn
    all_goals first
      | (rw [carryOut_gapTimer] at hn; cases hn)
      | (simp only [refuseLength, refuseCheck, endCollection_gapTimer] at hn; cases hn)
      | (simp [collect, takeOpcode] at hn; exact hn.symm)
      | (simp [ignoreFrame] at hn; split at h <;> simp_all; done)
      | (split at h <;> simp_all; done)
  | linkBreak => cases hn
  | framingError =>
    simp [takeFrame, takeFramingError] at hn
    exact hn.2.symm

end Sys2Proof.Machine
end

