-- ==== Sys2Proof/Laws/PerInstr.lean ====
section
/-! SUPPORT. Per command: its well-formedness check accepts exactly the operands its row has. -/
namespace Sys2Proof.Laws.WellFormed

/-- R1: a WRITE presents exactly length operand bytes, a READ or FETCH none. -/
def dataFits (a : Access) : Prop :=
  (a.kind = .write → a.data.length = a.len.bytes) ∧ (a.kind ≠ .write → a.data = [])

/-- The operands a command can have: R1 for an access, R166 for a length that is refused, R161 for a frame that is
no break. -/
def operandsAllowed : Instr → Prop
  | .accessArrival a => dataFits a
  | .resetRelease _ _ request => ∀ a, request = some a → dataFits a
  | .badLength n => 60 < n.toNat
  | .framingError mark data => mark = true ∨ data ≠ 0
  | .setupEnd | .readyWait | .beatComplete _ _ | .beatTimeout | .recoveryEnd | .spaceAdmission _
  | .moveToGrant _ | .drainComplete _ | .reset | .addressFrame _ | .dataFrame _ | .badCheck _ | .linkBreak
  | .gapTimeout | .turnaroundEnd | .responseFrameEnd | .identify | .readWindow | .writeWindow
  | .readProfile | .writeProfile | .readTrigger | .writeTrigger | .readGlobals | .writeGlobals
  | .copyLiveToStaged | .applyTable | .readBank | .setBankFollow | .setBankNow | .cancelPending
  | .readFaults | .removeFaults | .setAlert | .readQueue | .drain | .readLinkStatus | .badOpcode
  | .fallingEdge | .falseStart | .linkInputHigh => True

/-- The check accepts the command exactly when its operands are allowed. -/
def Statement (i : Instr) : Prop :=
  i.wellFormed = true ↔ operandsAllowed i

theorem access_wellFormed (a : Access) : a.wellFormed = true ↔ dataFits a := by
  obtain ⟨start, len, kind, data⟩ := a
  cases kind <;> simp [Access.wellFormed, dataFits]

theorem accessArrival (a : Access) : Statement (.accessArrival a) :=
  access_wellFormed a
theorem setupEnd : Statement .setupEnd :=
  iff_of_true rfl trivial
theorem readyWait : Statement .readyWait :=
  iff_of_true rfl trivial
theorem beatComplete (lane0 lane1 : Byte) : Statement (.beatComplete lane0 lane1) :=
  iff_of_true rfl trivial
theorem beatTimeout : Statement .beatTimeout :=
  iff_of_true rfl trivial
theorem recoveryEnd : Statement .recoveryEnd :=
  iff_of_true rfl trivial
theorem spaceAdmission (cause : RemovalCause) : Statement (.spaceAdmission cause) :=
  iff_of_true rfl trivial
theorem moveToGrant (cause : RemovalCause) : Statement (.moveToGrant cause) :=
  iff_of_true rfl trivial
theorem drainComplete (cause : RemovalCause) : Statement (.drainComplete cause) :=
  iff_of_true rfl trivial
theorem reset : Statement .reset :=
  iff_of_true rfl trivial
theorem resetRelease (straps : StrapLevels) (linkHigh : Bool) (request : Option Access) :
    Statement (.resetRelease straps linkHigh request) := by
  cases request with
  | none => simp [Statement, Instr.wellFormed, operandsAllowed]
  | some a => simp [Statement, Instr.wellFormed, operandsAllowed, access_wellFormed]
theorem addressFrame (value : Byte) : Statement (.addressFrame value) :=
  iff_of_true rfl trivial
theorem dataFrame (data : Byte) : Statement (.dataFrame data) :=
  iff_of_true rfl trivial
theorem badLength (n : Byte) : Statement (.badLength n) :=
  decide_eq_true_iff
theorem badCheck (check : Byte) : Statement (.badCheck check) :=
  iff_of_true rfl trivial
theorem linkBreak : Statement .linkBreak :=
  iff_of_true rfl trivial
theorem framingError (mark : Bool) (data : Byte) : Statement (.framingError mark data) := by
  cases mark <;> simp [Statement, Instr.wellFormed, operandsAllowed, isBreakPattern]
theorem gapTimeout : Statement .gapTimeout :=
  iff_of_true rfl trivial
theorem turnaroundEnd : Statement .turnaroundEnd :=
  iff_of_true rfl trivial
theorem responseFrameEnd : Statement .responseFrameEnd :=
  iff_of_true rfl trivial
theorem identify : Statement .identify :=
  iff_of_true rfl trivial
theorem readWindow : Statement .readWindow :=
  iff_of_true rfl trivial
theorem writeWindow : Statement .writeWindow :=
  iff_of_true rfl trivial
theorem readProfile : Statement .readProfile :=
  iff_of_true rfl trivial
theorem writeProfile : Statement .writeProfile :=
  iff_of_true rfl trivial
theorem readTrigger : Statement .readTrigger :=
  iff_of_true rfl trivial
theorem writeTrigger : Statement .writeTrigger :=
  iff_of_true rfl trivial
theorem readGlobals : Statement .readGlobals :=
  iff_of_true rfl trivial
theorem writeGlobals : Statement .writeGlobals :=
  iff_of_true rfl trivial
theorem copyLiveToStaged : Statement .copyLiveToStaged :=
  iff_of_true rfl trivial
theorem applyTable : Statement .applyTable :=
  iff_of_true rfl trivial
theorem readBank : Statement .readBank :=
  iff_of_true rfl trivial
theorem setBankFollow : Statement .setBankFollow :=
  iff_of_true rfl trivial
theorem setBankNow : Statement .setBankNow :=
  iff_of_true rfl trivial
theorem cancelPending : Statement .cancelPending :=
  iff_of_true rfl trivial
theorem readFaults : Statement .readFaults :=
  iff_of_true rfl trivial
theorem removeFaults : Statement .removeFaults :=
  iff_of_true rfl trivial
theorem setAlert : Statement .setAlert :=
  iff_of_true rfl trivial
theorem readQueue : Statement .readQueue :=
  iff_of_true rfl trivial
theorem drain : Statement .drain :=
  iff_of_true rfl trivial
theorem readLinkStatus : Statement .readLinkStatus :=
  iff_of_true rfl trivial
theorem badOpcode : Statement .badOpcode :=
  iff_of_true rfl trivial
theorem fallingEdge : Statement .fallingEdge :=
  iff_of_true rfl trivial
theorem falseStart : Statement .falseStart :=
  iff_of_true rfl trivial
theorem linkInputHigh : Statement .linkInputHigh :=
  iff_of_true rfl trivial

end Sys2Proof.Laws.WellFormed
end

