-- ==== Sys2Proof/Laws/Ports.lean ====
section
/-! SUPPORT. Processor port, write queue and memory port: what each shared operation keeps (chapters 1, 6, 7). -/
namespace Sys2Proof.Machine

/-! ### Beat plans and records -/

theorem planWide_ne (a p : Nat) : ∀ r, r ≠ 0 → planWide a p r ≠ []
  | 0, h => absurd rfl h
  | 1, _ => by unfold planWide; split <;> simp
  | _ + 2, _ => by unfold planWide; split <;> simp

/-- R88, R92: a beat list is never empty. -/
theorem planBeats_ne (p : PAddr) (l : Len) (w : Width) : planBeats p l w ≠ [] := by
  unfold planBeats
  cases w with
  | w8 => cases l <;> simp [planNarrow, Len.bytes]
  | w16 => exact planWide_ne _ _ _ (by cases l <;> simp [Len.bytes])

theorem overlaps_of_same {t u v : Txn} (h1 : u.select = v.select) (h2 : u.bytes = v.bytes) :
    u.overlaps t = v.overlaps t := by
  unfold Txn.overlaps
  rw [h1, h2]

/-- R97, R131: beats done and the origin play no part in the overlap. -/
theorem anyOverlap_head {e f : QueueEntry} (rest : List QueueEntry) (t : Txn)
    (h1 : f.txn.select = e.txn.select) (h2 : f.txn.bytes = e.txn.bytes) :
    anyOverlap (f :: rest) t = anyOverlap (e :: rest) t := by
  simp only [anyOverlap, List.any_cons]
  rw [overlaps_of_same h1 h2]

/-- A change of the head that keeps its bytes keeps every wait condition. -/
theorem WaitSound.head {t : Txn} {e f : QueueEntry} {rest : List QueueEntry} {w : Wait}
    (h1 : f.txn.select = e.txn.select) (h2 : f.txn.bytes = e.txn.bytes) (h : WaitSound t (e :: rest) w) :
    WaitSound t (f :: rest) w := by
  cases w with
  | space => exact h
  | overlap => exact ⟨h.1, h.2.1, by rw [anyOverlap_head rest t h1 h2]; exact h.2.2⟩
  | empty => exact ⟨h.1, h.2.1, by simp⟩
  | grant =>
    refine ⟨h.1, fun hr => ?_, fun ho => absurd (h.2.2 ho) (by simp)⟩
    rw [anyOverlap_head rest t h1 h2]
    exact h.2.1 hr

theorem PortSound.head {pp : PortState} {e f : QueueEntry} {rest : List QueueEntry}
    (h1 : f.txn.select = e.txn.select) (h2 : f.txn.bytes = e.txn.bytes) (hn : pp.notActive)
    (h : PortSound pp (e :: rest)) : PortSound pp (f :: rest) := by
  cases pp with
  | idle => trivial
  | held a t w => exact ⟨h.1, h.2.1, h.2.2.1, WaitSound.head h1 h2 h.2.2.2⟩
  | active a t c => exact hn.elim

/-- R85: one more beat done, another to come. -/
theorem Txn.sound_advance {t : Txn} (h : t.sound) (hl : t.onLastBeat = false) : t.advance.sound := by
  obtain ⟨h1, h2, h3, h4⟩ := h
  refine ⟨h1, h2, ?_, h4⟩
  simp only [Txn.onLastBeat, beq_eq_false_iff_ne] at hl
  simp only [Txn.advance]
  omega

theorem fill_length (l : BeatLanes) (x y : Byte) (c : List (Option Byte)) : (l.fill x y c).length = c.length := by
  cases l <;> simp [BeatLanes.fill]

/-! ### Starting a beat -/

/-- R104: a beat that starts is in SETUP, or in STROBE when setup is 0, with its counts and outputs. -/
theorem startBeat_sound {m : MemPort} {t : Txn} {b : Beat} {k : Nat} (hr : m.timing.inRange = true) :
    CountsSound (m.startBeat t b k) ∧ (m.startBeat t b k).beatIndex = k ∧
      (m.startBeat t b k).timing = m.timing ∧ (m.startBeat t b k).current = m.current ∧
      (((m.startBeat t b k).phase = .setup ∧ (m.startBeat t b k).pins = setupPins t b) ∨
        ((m.startBeat t b k).phase = .strobe ∧ (m.startBeat t b k).pins = (setupPins t b).withStrobe t.kind)) := by
  simp only [Profile.inRange, decide_eq_true_eq] at hr
  unfold MemPort.startBeat
  dsimp only
  split
  · refine ⟨⟨by simp [MemPort.enterStrobe], ?_, rfl, rfl⟩, rfl, rfl, rfl, Or.inr ⟨rfl, rfl⟩⟩
    simp only [MemPort.enterStrobe]
    omega
  · refine ⟨⟨by simp, ?_, rfl⟩, rfl, rfl, rfl, Or.inl ⟨rfl, rfl⟩⟩
    simp only
    omega

/-- The beat in progress of the PORT transaction. -/
theorem currentBeat_port {s : State} {a : Access} {t : Txn} {c : List (Option Byte)}
    (h1 : s.mp.current = some .port) (h2 : s.pp = .active a t c) :
    currentBeat s = (t.beats[s.mp.beatIndex]?).map fun b => (t, b) := by
  simp [currentBeat, currentTxn, h1, h2]

/-- The beat in progress of the queue entry in service. -/
theorem currentBeat_queue {s : State} {n : Byte} {e : QueueEntry} {rest : List QueueEntry}
    (h1 : s.mp.current = some (.queue n)) (h2 : s.wq.entries = e :: rest) (h3 : e.service = .inService)
    (h4 : e.seq = n) : currentBeat s = (e.txn.beats[s.mp.beatIndex]?).map fun b => (e.txn, b) := by
  simp [currentBeat, currentTxn, h1, h2, h3, h4]

/-- What startBeat leaves is sound on t whatever beat list place it came from. -/
theorem startBeat_on {s : State} {m : MemPort} {t : Txn} {b : Beat} (hm : s.mp = m.startBeat t b t.beatsDone)
    (ht : m.timing = t.timing) (hs : t.sound) (hb : t.beats[t.beatsDone]? = some b)
    (hc : currentBeat s = (t.beats[s.mp.beatIndex]?).map fun b => (t, b)) : s.mp.isOn t ∧ BeatSound s := by
  obtain ⟨c1, c2, c3, c4, c5⟩ := startBeat_sound (m := m) (t := t) (b := b) (k := t.beatsDone)
    (by rw [ht]; exact hs.2.1)
  rw [← hm] at c1 c2 c3 c4 c5
  rw [c2, hb] at hc
  refine ⟨?_, c1, ?_⟩
  · unfold MemPort.isOn
    rcases c5 with ⟨h, _⟩ | ⟨h, _⟩
    all_goals rw [h]
    all_goals exact ⟨c2, c3.trans ht⟩
  · unfold PinsSound
    rw [hc]
    rcases c5 with ⟨h, hp⟩ | ⟨h, hp⟩
    all_goals rw [h]
    all_goals intro t' b' hb'
    all_goals simp only [Option.map_some, Option.some.injEq, Prod.mk.injEq] at hb'
    all_goals rw [← hb'.1, ← hb'.2]
    all_goals exact hp

/-! ### The arbiter -/

/-- The port is free and the claims are as the owners hold them. -/
structure PortFree (s : State) : Prop where
  phase : s.mp.phase = .idle
  current : s.mp.current = none
  pins : s.mp.pins = s.mp.pins.released
  entries : ∀ e ∈ s.wq.entries, e.sound ∧ e.untouched
  port : PortSound s.pp s.wq.entries
  notActive : s.pp.notActive

theorem untouched_beat {e : QueueEntry} (h : e.sound) :
    ∃ b, e.txn.beats[e.txn.beatsDone]? = some b := by
  exact ⟨_, List.getElem?_eq_getElem h.1.2.2.1⟩

/-- R114, R127: a free port whose queue has a head grants it. -/
theorem grantHead_sound {s : State} (h : PortFree s) (hg : ∀ a t, s.pp ≠ .held a t .grant) :
    PortsSound (grantHead s) ∧ BeatSound (grantHead s) := by
  obtain ⟨p1, p2, p3, p4, p5, p6⟩ := h
  unfold grantHead
  split
  · rename_i hnil
    have hidle : s.pp = .idle := by
      cases hp : s.pp with
      | idle => rfl
      | active a t c => rw [hp] at p6; exact p6.elim
      | held a t w =>
        rw [hp, hnil] at p5
        have hw := p5.2.2.2
        cases w with
        | space => exact absurd hw.2 (by simp [queueCapacity])
        | overlap => exact absurd hw.2.2 (by simp [anyOverlap])
        | empty => exact absurd rfl hw.2.2
        | grant => exact absurd hp (hg a t)
    refine ⟨⟨fun e he => (p4 e he).1, p5, ?_⟩, ?_, ?_⟩
    · unfold OwnerSound
      rw [p2]
      exact ⟨p1, hidle, hnil⟩
    · unfold CountsSound
      rw [p1]
      trivial
    · unfold PinsSound
      rw [p1]
      exact p3
  · rename_i e rest he
    have hes := p4 e (by rw [he]; simp)
    obtain ⟨b, hb⟩ := untouched_beat hes.1
    rw [hes.2.1, hb]
    dsimp only
    have hon := startBeat_on (s := (s.setMp (s.mp.grant (.queue e.seq) e.txn b)).setWq
        { s.wq with entries := e.serve :: rest })
      (m := { s.mp with current := some (.queue e.seq), timing := e.txn.timing }) (t := e.txn) (b := b)
      rfl rfl hes.1.1 hb ?_
    · refine ⟨⟨?_, ?_, ?_⟩, hon.2⟩
      · intro f hf
        simp only [State.setWq_wq, List.mem_cons] at hf
        rcases hf with rfl | hf
        · exact hes.1
        · exact (p4 f (by rw [he]; simp [hf])).1
      · have := p5
        rw [he] at this
        exact PortSound.head (e := e) (f := e.serve) (pp := s.pp) rfl rfl p6 this
      · unfold OwnerSound
        simp only [State.setWq_mp, State.setMp_mp, State.setWq_wq, State.setWq_pp, State.setMp_pp]
        have hcur : (s.mp.grant (.queue e.seq) e.txn b).current = some (.queue e.seq) :=
          (startBeat_sound (m := { s.mp with current := some (.queue e.seq), timing := e.txn.timing })
            hes.1.1.2.1).2.2.2.1
        rw [hcur]
        refine ⟨p6, Or.inl ⟨e.serve, rest, rfl, rfl, rfl, hon.1, ?_⟩⟩
        intro f hf
        exact (p4 f (by rw [he]; simp [hf])).2
    · refine currentBeat_queue (n := e.seq) (e := e.serve) (rest := rest) ?_ rfl rfl rfl
      exact (startBeat_sound (m := { s.mp with current := some (.queue e.seq), timing := e.txn.timing })
        hes.1.1.2.1).2.2.2.1

/-- R11, R114: a free port grants the eligible PP transaction. -/
theorem grantPort_sound {s : State} (h : PortFree s) {a : Access} {t : Txn} (hp : s.pp = .held a t .grant) :
    PortsSound (grantPort a t s) ∧ BeatSound (grantPort a t s) := by
  obtain ⟨p1, p2, p3, p4, p5, p6⟩ := h
  rw [hp] at p5
  obtain ⟨t1, t2, t3, t4⟩ := p5
  have hb : t.beats[t.beatsDone]? = some (t.beats[t.beatsDone]'t1.2.2.1) := List.getElem?_eq_getElem t1.2.2.1
  unfold grantPort
  rw [hb]
  dsimp only
  generalize t.beats[t.beatsDone]'t1.2.2.1 = b at hb
  have hcur : (s.mp.grant .port t b).current = some .port :=
    (startBeat_sound (m := { s.mp with current := some .port, timing := t.timing }) t1.2.1).2.2.2.1
  have hon := startBeat_on (s := (s.setMp (s.mp.grant .port t b)).setPp (.active a t (emptyOperand t)))
    (m := { s.mp with current := some .port, timing := t.timing }) (t := t) (b := b) rfl rfl t1 hb
    (currentBeat_port hcur rfl)
  refine ⟨⟨fun e he => (p4 e he).1, ⟨t1, t2, t4, ?_⟩, ?_⟩, hon.2⟩
  · unfold emptyOperand
    cases t.kind <;> simp
  · unfold OwnerSound
    simp only [State.setPp_mp, State.setMp_mp, State.setPp_wq, State.setMp_wq, State.setPp_pp]
    rw [hcur]
    exact ⟨fun e he => (p4 e he).2, Or.inl ⟨a, t, _, rfl, hon.1⟩⟩

/-- R114: the arbiter at a free port. -/
theorem arbitrate_free {s : State} (h : PortFree s) : PortsSound (arbitrate s) ∧ BeatSound (arbitrate s) := by
  unfold arbitrate
  rw [h.phase]
  dsimp only
  split
  · rename_i a t hp
    exact grantPort_sound h hp
  all_goals
    rename_i hp
    exact grantHead_sound h (fun a t hc => by rw [hp] at hc; cases hc)

/-- R114: the arbiter does nothing while the port is not IDLE. -/
theorem arbitrate_busy {s : State} (h : s.mp.phase ≠ .idle) : arbitrate s = s := by
  unfold arbitrate
  split
  · rename_i hp; exact absurd hp h
  all_goals rfl

/-! ### The end of RECOVERY (R103) -/

theorem currentTxn_leaving {s : State} {o : Origin} (h : s.mp.current = some o) (hp : s.pp.notActive)
    (hq : ∀ e ∈ s.wq.entries, e.untouched) : currentTxn s = none := by
  unfold currentTxn
  rw [h]
  cases o with
  | port =>
    dsimp only
    cases hpp : s.pp with
    | idle => rfl
    | held a t w => rfl
    | active a t c => rw [hpp] at hp; exact hp.elim
  | queue n =>
    dsimp only
    cases he : s.wq.entries with
    | nil => rfl
    | cons e rest =>
      have := (hq e (by rw [he]; simp)).1
      simp [this]

theorem free_of_leaving {s : State} (h : PortsSound s) (hp : s.pp.notActive) (hq : ∀ e ∈ s.wq.entries, e.untouched)
    (hpins : s.mp.pins = s.mp.pins.released) : PortFree (s.setMp s.mp.goIdle) :=
  ⟨rfl, rfl, hpins, fun e he => ⟨h.1 e he, hq e he⟩, h.2.1, hp⟩

theorem recoveryDone_leaving {s : State} {o : Origin} (hc : s.mp.current = some o) (hp : s.pp.notActive)
    (hq : ∀ e ∈ s.wq.entries, e.untouched) : recoveryDone s = arbitrate (s.setMp s.mp.goIdle) := by
  unfold recoveryDone
  rw [currentTxn_leaving hc hp hq]
  cases s.mp.outcome <;> rfl

/-- R103, R112: at the end of a RECOVERY the next beat of the transaction starts, or the arbiter acts. -/
theorem recoveryDone_sound {s : State} (h : PortsSound s) (hr : s.mp.phase = .recovery)
    (hpins : s.mp.pins = s.mp.pins.released) : PortsSound (recoveryDone s) ∧ BeatSound (recoveryDone s) := by
  have ho := h.2.2
  unfold OwnerSound at ho
  split at ho
  · exact absurd ho.1 (by rw [hr]; simp)
  · rename_i hc
    obtain ⟨hu, ⟨a, t, c, hpp, hon⟩ | ⟨hna, -⟩⟩ := ho
    · unfold MemPort.isOn at hon
      rw [hr] at hon
      obtain ⟨o1, o2, o3⟩ := hon
      have hps := h.2.1
      rw [hpp] at hps
      obtain ⟨t1, t2, t3, t4⟩ := hps
      have hb : t.beats[t.beatsDone]? = some (t.beats[t.beatsDone]'t1.2.2.1) := List.getElem?_eq_getElem t1.2.2.1
      have htx : currentTxn s = some t := by simp [currentTxn, hc, hpp]
      have hstep : recoveryDone s = s.setMp (s.mp.startBeat t (t.beats[t.beatsDone]'t1.2.2.1) t.beatsDone) := by
        unfold recoveryDone
        rw [o1, htx]
        dsimp only
        rw [o2, hb]
      rw [hstep]
      generalize t.beats[t.beatsDone]'t1.2.2.1 = b at hb
      have hcur : (s.mp.startBeat t b t.beatsDone).current = some .port :=
        ((startBeat_sound (m := s.mp) (t := t) (b := b) (k := t.beatsDone) (by rw [o3]; exact t1.2.1)).2.2.2.1).trans hc
      have hon := startBeat_on (s := s.setMp (s.mp.startBeat t b t.beatsDone)) (m := s.mp) (t := t) (b := b)
        rfl o3 t1 hb (currentBeat_port hcur hpp)
      refine ⟨⟨h.1, h.2.1, ?_⟩, hon.2⟩
      unfold OwnerSound
      simp only [State.setMp_mp, State.setMp_wq, State.setMp_pp]
      rw [hcur]
      exact ⟨hu, Or.inl ⟨a, t, c, hpp, hon.1⟩⟩
    · rw [recoveryDone_leaving hc hna hu]
      exact arbitrate_free (free_of_leaving h hna hu hpins)
  · rename_i n hc
    obtain ⟨hna, ⟨e, rest, he, hsv, hsq, hon, hu⟩ | ⟨hu, -⟩⟩ := ho
    · unfold MemPort.isOn at hon
      rw [hr] at hon
      obtain ⟨o1, o2, o3⟩ := hon
      have t1 := (h.1 e (by rw [he]; simp)).1
      have hb : e.txn.beats[e.txn.beatsDone]? = some (e.txn.beats[e.txn.beatsDone]'t1.2.2.1) :=
        List.getElem?_eq_getElem t1.2.2.1
      have htx : currentTxn s = some e.txn := by simp [currentTxn, hc, he, hsv, hsq]
      have hstep : recoveryDone s =
          s.setMp (s.mp.startBeat e.txn (e.txn.beats[e.txn.beatsDone]'t1.2.2.1) e.txn.beatsDone) := by
        unfold recoveryDone
        rw [o1, htx]
        dsimp only
        rw [o2, hb]
      rw [hstep]
      generalize e.txn.beats[e.txn.beatsDone]'t1.2.2.1 = b at hb
      have hcur : (s.mp.startBeat e.txn b e.txn.beatsDone).current = some (.queue n) :=
        ((startBeat_sound (m := s.mp) (t := e.txn) (b := b) (k := e.txn.beatsDone)
          (by rw [o3]; exact t1.2.1)).2.2.2.1).trans hc
      have hon := startBeat_on (s := s.setMp (s.mp.startBeat e.txn b e.txn.beatsDone)) (m := s.mp) (t := e.txn)
        (b := b) rfl o3 t1 hb (currentBeat_queue hcur he hsv hsq)
      refine ⟨⟨h.1, h.2.1, ?_⟩, hon.2⟩
      unfold OwnerSound
      simp only [State.setMp_mp, State.setMp_wq, State.setMp_pp]
      rw [hcur]
      exact ⟨hna, Or.inl ⟨e, rest, he, hsv, hsq, hon.1, hu⟩⟩
    · rw [recoveryDone_leaving hc hna hu]
      exact arbitrate_free (free_of_leaving h hna hu hpins)

/-- R112, R118: after a report the RECOVERY runs, or ends at once when it is 0. -/
theorem afterReport_sound {s : State} (h : PortsSound s) (hr : s.mp.phase = .recovery)
    (hpins : s.mp.pins = s.mp.pins.released) (hcnt : s.mp.phaseCount = 1) (hout : s.mp.outcome ≠ .none) :
    PortsSound (afterReport s) ∧ BeatSound (afterReport s) := by
  unfold afterReport
  split
  · exact recoveryDone_sound h hr hpins
  · rename_i hne
    refine ⟨h, ?_, ?_⟩
    · unfold CountsSound
      rw [hr]
      exact ⟨by omega, by omega, hout⟩
    · unfold PinsSound
      rw [hr]
      exact hpins

/-! ### Removal (R126 to R129) -/

/-- R10, R11, R126, R132, R133: what PP holds is right again when the head e has left. -/
theorem retakeHeld_sound {s : State} {e : QueueEntry} {rest : List QueueEntry} (hr : s.wq.entries = rest)
    (hes : ∀ f ∈ rest, f.sound ∧ f.untouched) (hp : PortSound s.pp (e :: rest)) (hn : s.pp.notActive) :
    (∀ f ∈ (retakeHeld s).wq.entries, f.sound ∧ f.untouched) ∧
      PortSound (retakeHeld s).pp (retakeHeld s).wq.entries ∧ (retakeHeld s).pp.notActive := by
  unfold retakeHeld
  split
  · rename_i a t hpp
    rw [hpp] at hp
    refine ⟨?_, trivial, trivial⟩
    intro f hf
    simp only [admitWrite, State.setAnswer_wq, State.setPp_wq, State.setWq_wq, WriteQueue.enqueue,
      List.mem_append, List.mem_singleton, hr] at hf
    rcases hf with hf | rfl
    · exact hes f hf
    · exact ⟨⟨hp.1, hp.2.2.2.1⟩, rfl, hp.2.2.1⟩
  · rename_i a t hpp
    rw [hpp] at hp
    obtain ⟨w1, w2, w3⟩ := hp.2.2.2
    split
    · rename_i hov
      rw [hr] at hov
      rw [hr, hpp]
      exact ⟨hes, ⟨hp.1, hp.2.1, hp.2.2.1, w1, w2, hov⟩, trivial⟩
    · rename_i hov
      rw [hr] at hov
      refine ⟨by rw [State.setPp_wq, hr]; exact hes, ?_, trivial⟩
      rw [State.setPp_pp, State.setPp_wq, hr]
      exact ⟨hp.1, hp.2.1, hp.2.2.1, w1, fun _ => by simpa using hov, fun ho => by rw [w2] at ho; cases ho⟩
  · rename_i a t hpp
    rw [hpp] at hp
    obtain ⟨w1, w2, w3⟩ := hp.2.2.2
    split
    · rename_i hem
      rw [hr] at hem
      refine ⟨by rw [State.setPp_wq, hr]; exact hes, ?_, trivial⟩
      rw [State.setPp_pp, State.setPp_wq, hr]
      exact ⟨hp.1, hp.2.1, hp.2.2.1, w1, (fun ho => by rw [w2] at ho; cases ho), fun _ => by simpa using hem⟩
    · rename_i hem
      rw [hr] at hem
      rw [hr, hpp]
      exact ⟨hes, ⟨hp.1, hp.2.1, hp.2.2.1, w1, w2, by simpa using hem⟩, trivial⟩
  · rename_i a t hpp
    rw [hpp] at hp
    obtain ⟨w1, w2, w3⟩ := hp.2.2.2
    rw [hr, hpp]
    refine ⟨hes, ⟨hp.1, hp.2.1, hp.2.2.1, w1, fun ho => ?_, fun ho => absurd (w3 ho) (by simp)⟩, trivial⟩
    have := w2 ho
    simp only [anyOverlap, List.any_cons, Bool.or_eq_false_iff] at this
    exact this.2
  · rename_i hpp
    rw [hr, hpp]
    exact ⟨hes, trivial, trivial⟩
  · rename_i a t c hpp
    rw [hpp] at hn
    exact hn.elim

/-- R128, R129: after the removal of the head the rest is untouched and PP's condition is right. -/
theorem removeHead_sound {s : State} {e : QueueEntry} {rest : List QueueEntry} (he : s.wq.entries = e :: rest)
    (hes : ∀ f ∈ rest, f.sound ∧ f.untouched) (hp : PortSound s.pp s.wq.entries) (hn : s.pp.notActive)
    (c : RemovalCause) :
    (∀ f ∈ (removeHead c s).wq.entries, f.sound ∧ f.untouched) ∧
      PortSound (removeHead c s).pp (removeHead c s).wq.entries ∧ (removeHead c s).pp.notActive := by
  unfold removeHead
  rw [he]
  dsimp only
  rw [he] at hp
  refine retakeHeld_sound (e := e) (rest := rest) ?_ hes ?_ ?_
  · rw [settleMarker_entries]
    rfl
  · simpa using hp
  · simpa using hn

/-! ### Reports (R118) -/

/-- The part of PortsSound that a report needs: the transaction of the beat in progress, with its owner. -/
theorem running_owner {s : State} {t : Txn} {b : Beat} (h : PortsSound s) (hr : s.mp.strobeRunning = true)
    (hb : currentBeat s = some (t, b)) :
    (s.mp.current = some .port ∧ (∀ e ∈ s.wq.entries, e.untouched) ∧
        ∃ a c, s.pp = .active a t c ∧ s.mp.performs t) ∨
      ∃ n e rest, s.mp.current = some (.queue n) ∧ s.pp.notActive ∧ s.wq.entries = e :: rest ∧ e.txn = t ∧
        e.service = .inService ∧ e.seq = n ∧ s.mp.performs t ∧ ∀ f ∈ rest, f.untouched := by
  have hon : ∀ t', s.mp.isOn t' → s.mp.performs t' := by
    intro t' h'
    unfold MemPort.isOn at h'
    unfold MemPort.strobeRunning at hr
    split at hr
    all_goals first | cases hr | skip
    all_goals rename_i hp
    all_goals rw [hp] at h'
    all_goals exact h'
  have hnl : ¬ s.mp.isLeaving := by
    intro h'
    unfold MemPort.isLeaving at h'
    rw [MemPort.strobeRunning, h'] at hr
    cases hr
  have ho := h.2.2
  unfold OwnerSound at ho
  split at ho
  · rw [MemPort.strobeRunning, ho.1] at hr
    cases hr
  · rename_i hc
    obtain ⟨hu, ⟨a, t', c, hpp, hon'⟩ | ⟨-, hl⟩⟩ := ho
    · rw [currentBeat_port hc hpp] at hb
      have : t' = t := by
        cases hbb : t'.beats[s.mp.beatIndex]? with
        | none => rw [hbb] at hb; cases hb
        | some b' => rw [hbb] at hb; cases hb; rfl
      subst this
      exact Or.inl ⟨hc, hu, a, c, hpp, hon _ hon'⟩
    · exact absurd hl hnl
  · rename_i n hc
    obtain ⟨hna, ⟨e, rest, he, hsv, hsq, hon', hu⟩ | ⟨-, hl⟩⟩ := ho
    · rw [currentBeat_queue hc he hsv hsq] at hb
      have : e.txn = t := by
        cases hbb : e.txn.beats[s.mp.beatIndex]? with
        | none => rw [hbb] at hb; cases hb
        | some b' => rw [hbb] at hb; cases hb; rfl
      exact Or.inr ⟨n, e, rest, hc, hna, he, this, hsv, hsq, this ▸ hon _ hon', hu⟩
    · exact absurd hl hnl

/-- R118: a complete report keeps the three blocks together. -/
theorem beatDone_sound {s : State} {t : Txn} {b : Beat} (h : PortsSound s) (hr : s.mp.strobeRunning = true)
    (hb : currentBeat s = some (t, b)) (x y : Byte) :
    PortsSound (beatDone b x y s) ∧ BeatSound (beatDone b x y s) := by
  unfold beatDone
  have hmp : (ownerBeatDone b x y (s.setMp (s.mp.endStrobe .complete))).mp = s.mp.endStrobe .complete := by simp
  refine afterReport_sound ?_ (by rw [hmp]; rfl) (by rw [hmp]; rfl) (by rw [hmp]; rfl)
    (by rw [hmp]; simp [MemPort.endStrobe])
  rcases running_owner h hr hb with ⟨hc, hu, a, c, hpp, hperf⟩ | ⟨n, e, rest, hc, hna, he, hte, hsv, hsq, hperf, hu⟩
  · have hps := h.2.1
    rw [hpp] at hps
    obtain ⟨t1, t2, t3, t4⟩ := hps
    have hstep : ownerBeatDone b x y (s.setMp (s.mp.endStrobe .complete)) =
        portBeatDone a t b c x y (s.setMp (s.mp.endStrobe .complete)) := by
      unfold ownerBeatDone
      simp only [State.setMp_mp, State.setMp_pp, hpp]
      have : (s.mp.endStrobe .complete).current = some .port := hc
      rw [this]
    rw [hstep] at hmp ⊢
    unfold portBeatDone
    dsimp only
    by_cases hl : t.onLastBeat = true
    · rw [if_pos hl]
      refine ⟨h.1, trivial, ?_⟩
      unfold OwnerSound
      have : (s.mp.endStrobe .complete).current = some .port := hc
      simp only [State.setAnswer_mp, State.setPp_mp, State.setMp_mp, State.setAnswer_pp, State.setPp_pp,
        State.setAnswer_wq, State.setPp_wq, State.setMp_wq, this]
      exact ⟨hu, Or.inr ⟨trivial, rfl⟩⟩
    · rw [if_neg hl]
      have hl' : t.onLastBeat = false := by simpa using hl
      refine ⟨h.1, ⟨Txn.sound_advance t1 hl', t2, t3, ?_⟩, ?_⟩
      · have hk : t.advance.kind = t.kind := rfl
        have hln : t.advance.len = t.len := rfl
        rw [hk, hln]
        by_cases hw : t.kind = .write
        · rw [if_pos hw, if_pos hw]
          rw [if_pos hw] at t4
          exact t4
        · rw [if_neg hw, if_neg hw, fill_length]
          rw [if_neg hw] at t4
          exact t4
      · unfold OwnerSound
        have : (s.mp.endStrobe .complete).current = some .port := hc
        simp only [State.setPp_mp, State.setMp_mp, State.setPp_pp, State.setPp_wq, State.setMp_wq, this]
        refine ⟨hu, Or.inl ⟨a, t.advance, _, rfl, ?_⟩⟩
        exact ⟨rfl, by simp [MemPort.endStrobe, Txn.advance, hperf.1], hperf.2⟩
  · have hstep : ownerBeatDone b x y (s.setMp (s.mp.endStrobe .complete)) =
        queueBeatDone e rest (s.setMp (s.mp.endStrobe .complete)) := by
      unfold ownerBeatDone
      simp only [State.setMp_mp, State.setMp_wq, he]
      have : (s.mp.endStrobe .complete).current = some (.queue n) := hc
      rw [this]
    rw [hstep] at hmp ⊢
    have hes : ∀ f ∈ rest, f.sound ∧ f.untouched := fun f hf => ⟨h.1 f (by rw [he]; simp [hf]), hu f hf⟩
    have hesnd := h.1 e (by rw [he]; simp)
    unfold queueBeatDone at hmp ⊢
    by_cases hl : e.txn.onLastBeat = true
    · rw [if_pos hl] at hmp ⊢
      obtain ⟨r1, r2, r3⟩ := removeHead_sound (s := s.setMp (s.mp.endStrobe .complete)) he hes h.2.1 hna .completed
      refine ⟨fun f hf => (r1 f hf).1, r2, ?_⟩
      unfold OwnerSound
      have : (s.mp.endStrobe .complete).current = some (.queue n) := hc
      rw [hmp, this]
      exact ⟨r3, Or.inr ⟨fun f hf => (r1 f hf).2, rfl⟩⟩
    · rw [if_neg hl] at hmp ⊢
      have hl' : e.txn.onLastBeat = false := by simpa using hl
      have hps := h.2.1
      rw [he] at hps
      refine ⟨?_, PortSound.head (e := e) rfl rfl hna hps, ?_⟩
      · intro f hf
        simp only [State.setWq_wq, List.mem_cons] at hf
        rcases hf with rfl | hf
        · exact ⟨Txn.sound_advance hesnd.1 hl', hesnd.2⟩
        · exact (hes f hf).1
      · unfold OwnerSound
        have : (s.mp.endStrobe .complete).current = some (.queue n) := hc
        simp only [State.setWq_mp, State.setMp_mp, State.setWq_wq, State.setWq_pp, State.setMp_pp, this]
        refine ⟨hna, Or.inl ⟨_, rest, rfl, hsv, hsq, ?_, hu⟩⟩
        subst hte
        exact ⟨rfl, by simp [MemPort.endStrobe, Txn.advance, hperf.1], hperf.2⟩

/-- R111: a timeout report keeps the three blocks together. -/
theorem beatFailed_sound {s : State} {t : Txn} {b : Beat} (h : PortsSound s) (hr : s.mp.strobeRunning = true)
    (hb : currentBeat s = some (t, b)) : PortsSound (beatFailed t b s) ∧ BeatSound (beatFailed t b s) := by
  unfold beatFailed
  have hmp : (ownerTimeout t b (s.setMp (s.mp.endStrobe .timeout))).mp = s.mp.endStrobe .timeout := by simp
  refine afterReport_sound ?_ (by rw [hmp]; rfl) (by rw [hmp]; rfl) (by rw [hmp]; rfl)
    (by rw [hmp]; simp [MemPort.endStrobe])
  rcases running_owner h hr hb with ⟨hc, hu, a, c, hpp, hperf⟩ | ⟨n, e, rest, hc, hna, he, hte, hsv, hsq, hperf, hu⟩
  · have hcur : (s.mp.endStrobe .timeout).current = some .port := hc
    unfold ownerTimeout
    simp only [State.setMp_mp, hcur]
    refine ⟨by simpa using h.1, trivial, ?_⟩
    unfold OwnerSound
    simp only [State.setAnswer_mp, State.setPp_mp, State.setAnswer_pp, State.setPp_pp, State.setAnswer_wq,
      State.setPp_wq, raiseTimeout_frame, State.setMp_mp, State.setMp_wq, hcur]
    exact ⟨hu, Or.inr ⟨trivial, rfl⟩⟩
  · have hes : ∀ f ∈ rest, f.sound ∧ f.untouched := fun f hf => ⟨h.1 f (by rw [he]; simp [hf]), hu f hf⟩
    have hcur : (s.mp.endStrobe .timeout).current = some (.queue n) := hc
    unfold ownerTimeout at hmp ⊢
    simp only [State.setMp_mp, hcur] at hmp ⊢
    obtain ⟨r1, r2, r3⟩ := removeHead_sound
      (s := raiseTimeout t b true (s.setMp (s.mp.endStrobe .timeout))) (e := e) (rest := rest)
      (by simpa using he) hes (by simpa using h.2.1) (by simpa using hna) .timedOut
    refine ⟨fun f hf => (r1 f hf).1, r2, ?_⟩
    unfold OwnerSound
    rw [hmp, hcur]
    exact ⟨r3, Or.inr ⟨fun f hf => (r1 f hf).2, rfl⟩⟩

/-! ### Arrivals -/

/-- R83: the record formed at an accepted arrival, when the live profiles are in range. -/
theorem formTxn_sound {t : TableSet} {w : Fin 16} {a : Access} {p : PAddr} (ht : t.inRange)
    (ha : a.wellFormed = true) : (formTxn t w a p).sound ∧ (formTxn t w a p).isOf a := by
  refine ⟨⟨rfl, ht.2 _, ?_, ?_⟩, rfl, rfl, rfl, rfl, rfl⟩
  · exact List.length_pos_iff.mpr (planBeats_ne _ _ _)
  · intro hk
    have hk' : a.kind = .write := hk
    unfold Access.wellFormed at ha
    rw [hk'] at ha
    exact eq_of_beq ha

/-- A new state of PP and a longer queue while the port is busy change nothing at the memory port. -/
theorem owner_appended {s : State} {pp : PortState} {new : List QueueEntry} (h : PortsSound s) (hb : BeatSound s)
    (hi : s.pp = .idle) (hp : pp.notActive) (hbusy : s.mp.phase ≠ .idle) {u : State} (hmp : u.mp = s.mp)
    (hpp : u.pp = pp) (hwq : u.wq.entries = s.wq.entries ++ new) (hnew : ∀ e ∈ new, e.untouched) :
    OwnerSound u ∧ BeatSound u := by
  have ho := h.2.2
  unfold OwnerSound at ho
  have hcounts : CountsSound u.mp := by rw [hmp]; exact hb.1
  have hpins : s.mp.isLeaving → PinsSound u.mp (currentBeat u) := by
    intro hl
    have hl' : s.mp.phase = .recovery := hl
    have := hb.2
    unfold PinsSound at this ⊢
    rw [hmp, hl']
    rw [hl'] at this
    exact this
  split at ho
  · exact absurd ho.1 hbusy
  · rename_i hc
    obtain ⟨hu, ⟨a, t, c, hpp', -⟩ | ⟨-, hl⟩⟩ := ho
    · rw [hi] at hpp'; cases hpp'
    · refine ⟨?_, hcounts, hpins hl⟩
      unfold OwnerSound
      rw [hmp, hc, hpp, hwq]
      refine ⟨?_, Or.inr ⟨hp, hl⟩⟩
      intro e he
      rcases List.mem_append.mp he with he | he
      · exact hu e he
      · exact hnew e he
  · rename_i n hc
    obtain ⟨-, ⟨e, rest, he, hsv, hsq, hon, hu⟩ | ⟨hu, hl⟩⟩ := ho
    · have he' : u.wq.entries = e :: (rest ++ new) := by rw [hwq, he]; rfl
      have hcb : currentBeat u = currentBeat s := by
        rw [currentBeat_queue (by rw [hmp]; exact hc) he' hsv hsq, currentBeat_queue hc he hsv hsq, hmp]
      refine ⟨?_, hcounts, by rw [hmp, hcb]; exact hb.2⟩
      unfold OwnerSound
      rw [hmp, hc, hpp]
      refine ⟨hp, Or.inl ⟨e, rest ++ new, he', hsv, hsq, hon, ?_⟩⟩
      intro f hf
      rcases List.mem_append.mp hf with hf | hf
      · exact hu f hf
      · exact hnew f hf
    · refine ⟨?_, hcounts, hpins hl⟩
      unfold OwnerSound
      rw [hmp, hc, hpp, hwq]
      refine ⟨hp, Or.inr ⟨?_, hl⟩⟩
      intro f hf
      rcases List.mem_append.mp hf with hf | hf
      · exact hu f hf
      · exact hnew f hf

/-- R11: the wait condition of a CARRIED access holds at its arrival. -/
theorem carriedWait_sound {t : Txn} (h : isPosted t = false) (entries : List QueueEntry) :
    WaitSound t entries (carriedWait t entries) := by
  unfold carriedWait
  split
  · rename_i ho
    split
    · rename_i hov
      exact ⟨h, ho, hov⟩
    · rename_i hov
      exact ⟨h, fun _ => by simpa using hov, fun hc => by rw [ho] at hc; cases hc⟩
  · rename_i ho
    split
    · rename_i hem
      exact ⟨h, (fun hc => by rw [ho] at hc; cases hc), fun _ => by simpa using hem⟩
    · rename_i hem
      exact ⟨h, ho, by simpa using hem⟩

/-- R9, R11, R115: the outcome of an accepted access keeps the three blocks together. -/
theorem routeAccess_sound {s : State} {a : Access} {t : Txn} (h : PortsSound s) (hb : BeatSound s)
    (hi : s.pp = .idle) (hlen : s.wq.entries.length ≤ queueCapacity) (ht : t.sound) (ha : t.isOf a)
    (hd : t.beatsDone = 0) : PortsSound (routeAccess a t s) ∧ BeatSound (routeAccess a t s) := by
  have hidle : s.mp.phase = .idle → s.mp.current = none ∧ s.wq.entries = [] ∧
      s.mp.pins = s.mp.pins.released := by
    intro hph
    have ho := h.2.2
    unfold OwnerSound at ho
    have hpins := hb.2
    unfold PinsSound at hpins
    rw [hph] at hpins
    split at ho
    · rename_i hc
      exact ⟨hc, ho.2.2, hpins⟩
    · obtain ⟨-, ⟨_, _, _, -, hon⟩ | ⟨-, hl⟩⟩ := ho
      · unfold MemPort.isOn at hon
        rw [hph] at hon
        exact hon.elim
      · unfold MemPort.isLeaving at hl
        rw [hph] at hl
        cases hl
    · obtain ⟨-, ⟨_, _, -, -, -, hon, -⟩ | ⟨-, hl⟩⟩ := ho
      · unfold MemPort.isOn at hon
        rw [hph] at hon
        exact hon.elim
      · unfold MemPort.isLeaving at hl
        rw [hph] at hl
        cases hl
  unfold routeAccess
  split
  · rename_i hpost
    have hnew : ∀ n : Byte, QueueEntry.sound { seq := n, service := .waiting, txn := { t with origin := .queue n } } :=
      fun n => ⟨ht, hpost⟩
    split
    · have hent : ∀ e ∈ (admitWrite t s).wq.entries, e.sound := by
        intro e he
        rcases List.mem_append.mp he with he | he
        · exact h.1 e he
        · rw [List.mem_singleton.mp he]
          exact hnew _
      by_cases hph : s.mp.phase = .idle
      · obtain ⟨i1, i2, i3⟩ := hidle hph
        refine arbitrate_free ⟨hph, i1, i3, ?_, trivial, trivial⟩
        intro e he
        refine ⟨hent e he, ?_⟩
        have : e ∈ s.wq.entries ++ [_] := he
        rw [i2] at this
        rw [List.mem_singleton.mp this]
        exact ⟨rfl, hd⟩
      · rw [arbitrate_busy (s := admitWrite t s) (by simpa using hph)]
        obtain ⟨o1, o2⟩ := owner_appended (pp := .idle) (u := admitWrite t s) h hb hi trivial hph (by simp) rfl rfl
          (by
            intro e he
            rw [List.mem_singleton.mp he]
            exact ⟨rfl, hd⟩)
        exact ⟨⟨hent, trivial, o1⟩, o2⟩
    · rename_i hfull
      have hph : s.mp.phase ≠ .idle := by
        intro hph
        obtain ⟨-, i2, -⟩ := hidle hph
        rw [i2] at hfull
        exact hfull (by simp [queueCapacity])
      obtain ⟨o1, o2⟩ := owner_appended (pp := .held a t .space) (new := [])
        (u := s.setPp (.held a t .space)) h hb hi trivial hph rfl rfl (by simp) (by simp)
      exact ⟨⟨h.1, ⟨ht, ha, hd, hpost, by simp only [State.setPp_wq]; omega⟩, o1⟩, o2⟩
  · rename_i hpost
    have hcar : isPosted t = false := by simpa using hpost
    have hw := carriedWait_sound hcar s.wq.entries
    by_cases hph : s.mp.phase = .idle
    · obtain ⟨i1, i2, i3⟩ := hidle hph
      refine arbitrate_free ⟨hph, i1, i3, ?_, ⟨ht, ha, hd, hw⟩, trivial⟩
      intro e he
      have : e ∈ s.wq.entries := he
      rw [i2] at this
      cases this
    · rw [arbitrate_busy (by simpa using hph)]
      obtain ⟨o1, o2⟩ := owner_appended (pp := .held a t (carriedWait t s.wq.entries)) (new := [])
        (u := s.setPp (.held a t (carriedWait t s.wq.entries))) h hb hi trivial hph rfl rfl (by simp) (by simp)
      exact ⟨⟨h.1, ⟨ht, ha, hd, hw⟩, o1⟩, o2⟩

end Sys2Proof.Machine
end

