-- ==== Sys2Proof/Laws/Steps.lean ====
section
/-! SUPPORT. Everything a step can do, said once: a property that each of the part's events keeps is kept by every
step. -/
namespace Sys2Proof.Machine

/-- The receiver's view of the line moves, the conversation stays. -/
def State.moveLine (s : State) (line : LineState) (linkIn : Bool) (rxTime : Nat) (samples : List Bool) : State :=
  s.setSl { s.sl with line := line, linkIn := linkIn, rxTime := rxTime, samples := samples }

/-- P is kept by each event of the part, at the states in which the event happens. -/
structure KeptByEvents (P : State → Prop) : Prop where
  pending : ∀ s q, P s → P (s.setPending q)
  period : ∀ s, P s → P (s.setPeriod (s.period + 1))
  clock : ∀ s, P s → s.resetHeld = false → P (s.setSl s.sl.advance)
  line : ∀ s line linkIn rx samples, P s → P (s.moveLine line linkIn rx samples)
  arrival : ∀ s a t, P s → s.resetHeld = false → s.pp = .idle → a.wellFormed = true →
    takeArrival a s = .next t → P t
  hold : ∀ s, P s → P (holdReset s)
  release : ∀ s p l, P s → s.resetHeld = true → P (releaseReset p l s)
  setupDone : ∀ s t b, P s → s.mp.phase = .setup → currentBeat s = some (t, b) →
    P (s.setMp (s.mp.enterStrobe t.kind))
  wait : ∀ s, P s → s.mp.phase = .strobe → s.mp.mayWait = true → P (enterReadyWait s)
  countSetup : ∀ s, P s → s.mp.phase = .setup → s.mp.phaseCount < s.mp.timing.setup → P (s.setMp s.mp.countPhase)
  countRecovery : ∀ s, P s → s.mp.phase = .recovery → s.mp.phaseCount < s.mp.timing.recovery →
    P (s.setMp s.mp.countPhase)
  countStrobe : ∀ s, P s → s.mp.phase = .strobe → s.mp.strobeCount < s.mp.timing.strobe →
    P (s.setMp s.mp.countStrobe)
  countWait : ∀ s, P s → s.mp.phase = .readyWait → s.mp.strobeCount < s.mp.timing.limit →
    P (s.setMp s.mp.countWait)
  beatDone : ∀ s t b x y, P s → s.mp.strobeRunning = true → currentBeat s = some (t, b) → P (beatDone b x y s)
  beatFailed : ∀ s t b, P s → s.mp.strobeRunning = true → currentBeat s = some (t, b) → P (beatFailed t b s)
  recovery : ∀ s, P s → s.mp.phase = .recovery → P (recoveryDone s)
  address : ∀ s v, P s → s.resetHeld = false → P (takeAddress v s)
  linkBreak : ∀ s, P s → s.resetHeld = false → P (takeBreak s)
  framingError : ∀ s, P s → s.resetHeld = false → P (takeFramingError s)
  gapTimeout : ∀ s, P s → s.sl.gapTimer.isSome = true → P (takeGapTimeout s)
  turnaroundEnd : ∀ s, P s → s.sl.transmitter = .turnaround → P (beginResponseFrames s)
  nextBit : ∀ s k b p, P s → s.sl.transmitter = .sending k b p → b < 10 →
    P (s.setSl { s.sl with transmitter := .sending k (b + 1) 0 })
  responseFrameEnd : ∀ s k b p, P s → s.sl.transmitter = .sending k b p → P (endResponseFrame k s)
  ignored : ∀ s, P s → s.resetHeld = false →
    ((∃ sel, s.sl.receiver = .executing sel) ∨ s.sl.receiver = .responding) → P (ignoreFrame s)
  opcode : ∀ s sel b, P s → s.resetHeld = false → s.sl.receiver = .selected sel → s.sl.command = none →
    P (takeOpcode b s)
  lengthFrame : ∀ s sel c n, P s → s.resetHeld = false → s.sl.receiver = .selected sel →
    s.sl.command = some c → c.length = none → n.toNat ≤ maxPayload →
    P (collect { c with length := some n, sum := c.sum + n } s)
  payloadFrame : ∀ s sel c n b, P s → s.resetHeld = false → s.sl.receiver = .selected sel →
    s.sl.command = some c → c.length = some n → c.complete = false →
    P (collect { c with payload := c.payload ++ [b], sum := c.sum + b } s)
  badLength : ∀ s sel c, P s → s.resetHeld = false → s.sl.receiver = .selected sel →
    s.sl.command = some c → P (refuseLength sel s)
  badCheck : ∀ s sel c, P s → s.resetHeld = false → s.sl.receiver = .selected sel →
    s.sl.command = some c → P (refuseCheck sel s)
  service : ∀ s sel c check, P s → s.resetHeld = false → s.sl.receiver = .selected sel →
    s.sl.command = some c → c.complete = true → (c.addCheck check).sum = 0 →
    P (carryOut (serviceOf c.opcode) sel (c.addCheck check) s)

section
variable {P : State → Prop}

theorem KeptByEvents.frameEnded (h : KeptByEvents P) {s : State} (b : Bool) (hs : P s) : P (frameEnded b s) :=
  h.line s _ b 0 [] hs

theorem KeptByEvents.closeFrame (h : KeptByEvents P) {s : State} (b : Bool) (hs : P s) :
    P (s.setSl (s.sl.closeFrame b)) :=
  h.line s _ s.sl.linkIn 0 [] hs

theorem KeptByEvents.overdueGap (h : KeptByEvents P) {s : State} (hs : P s) : P (overdueGap s) := by
  unfold Machine.overdueGap
  split
  · rename_i n _ hn
    split
    · exact h.gapTimeout s hs (by simp [hn])
    · exact hs
  · rename_i n _ hn
    split
    · exact h.gapTimeout s hs (by simp [hn])
    · exact hs
  · exact hs
  · exact hs

theorem KeptByEvents.takeCheck (h : KeptByEvents P) {s : State} {sel : Selection} {c : CommandBuffer} (b : Byte)
    (hs : P s) (hr : s.resetHeld = false) (h1 : s.sl.receiver = .selected sel) (h2 : s.sl.command = some c)
    (h3 : c.complete = true) : P (takeCheck sel c b s) := by
  unfold Machine.takeCheck
  split
  · rename_i h4
    exact h.service s sel c b hs hr h1 h2 h3 h4
  · exact h.badCheck s sel c hs hr h1 h2

theorem KeptByEvents.takeData (h : KeptByEvents P) {s : State} (b : Byte) (hs : P s) (hr : s.resetHeld = false) :
    P (takeData b s) := by
  unfold Machine.takeData
  split
  · exact hs
  · rename_i sel he
    exact h.ignored s hs hr (Or.inl ⟨sel, he⟩)
  · rename_i he
    exact h.ignored s hs hr (Or.inr he)
  · rename_i sel he
    split
    · rename_i hc
      exact h.opcode s sel b hs hr he hc
    · rename_i c hc
      unfold takeNext
      split
      · rename_i hl
        split
        · exact h.badLength s sel c hs hr he hc
        · exact h.lengthFrame s sel c b hs hr he hc hl (by omega)
      · rename_i n hl
        split
        · rename_i hcomp
          exact h.takeCheck b hs hr he hc hcomp
        · rename_i hcomp
          exact h.payloadFrame s sel c n b hs hr he hc hl (by simpa using hcomp)

theorem KeptByEvents.takeFrame (h : KeptByEvents P) {s : State} (k : FrameKind) (hs : P s)
    (hr : s.resetHeld = false) : P (takeFrame k s) := by
  unfold Machine.takeFrame
  split
  · exact h.address s _ hs hr
  · exact h.takeData _ hs hr
  · exact h.linkBreak s hs hr
  · exact h.framingError s hs hr

/-! ### The memory port -/

theorem KeptByEvents.endSetup (h : KeptByEvents P) {s t : State} (hs : P s) (hp : s.mp.phase = .setup)
    (ht : endSetup s = .next t) : P t := by
  unfold Machine.endSetup at ht
  split at ht
  · cases ht
  · rename_i x b hb
    cases ht
    exact h.setupDone s x b hs hp hb

theorem KeptByEvents.completeBeat (h : KeptByEvents P) {s t : State} {x y : Byte} (hs : P s)
    (hp : s.mp.strobeRunning = true) (ht : completeBeat x y s = .next t) : P t := by
  unfold Machine.completeBeat at ht
  split at ht
  · cases ht
  · rename_i r b hb
    cases ht
    exact h.beatDone s r b x y hs hp hb

theorem KeptByEvents.timeoutBeat (h : KeptByEvents P) {s t : State} (hs : P s)
    (hp : s.mp.strobeRunning = true) (ht : timeoutBeat s = .next t) : P t := by
  unfold Machine.timeoutBeat at ht
  split at ht
  · cases ht
  · rename_i r b hb
    cases ht
    exact h.beatFailed s r b hs hp hb

theorem KeptByEvents.lastStrobePeriod (h : KeptByEvents P) {s t : State} {m : Bool} {x y : Byte} (hs : P s)
    (hp : s.mp.phase = .strobe) (ht : lastStrobePeriod m x y s = .next t) : P t := by
  have hr : s.mp.strobeRunning = true := by simp [MemPort.strobeRunning, hp]
  unfold Machine.lastStrobePeriod at ht
  split at ht
  · exact h.completeBeat hs hr ht
  · rename_i hm
    split at ht
    · exact h.completeBeat hs hr ht
    · split at ht
      · rename_i hl
        cases ht
        exact h.wait s hs hp (by simp [MemPort.mayWait, hm, hl])
      · exact h.timeoutBeat hs hr ht

theorem KeptByEvents.memoryPeriod (h : KeptByEvents P) {s t : State} {m : Bool} {x y : Byte} (hs : P s)
    (ht : memoryPeriod m x y s = .next t) : P t := by
  unfold Machine.memoryPeriod at ht
  split at ht
  · cases ht; exact hs
  · rename_i hp
    split at ht
    · rename_i hc; cases ht; exact h.countSetup s hs hp hc
    · exact h.endSetup hs hp ht
  · rename_i hp
    split at ht
    · rename_i hc; cases ht; exact h.countStrobe s hs hp hc
    · exact h.lastStrobePeriod hs hp ht
  · rename_i hp
    have hr : s.mp.strobeRunning = true := by simp [MemPort.strobeRunning, hp]
    split at ht
    · exact h.completeBeat hs hr ht
    · split at ht
      · rename_i hc; cases ht; exact h.countWait s hs hp hc
      · exact h.timeoutBeat hs hr ht
  · rename_i hp
    split at ht
    · rename_i hc; cases ht; exact h.countRecovery s hs hp hc
    · cases ht; exact h.recovery s hs hp

theorem KeptByEvents.removalReport (h : KeptByEvents P) {s t : State} {c : RemovalCause} (hs : P s)
    (ht : removalReport c s = .next t) : P t := by
  unfold Machine.removalReport at ht
  split at ht
  · unfold execBeatComplete at ht
    split at ht
    · rename_i hp; exact h.completeBeat hs hp ht
    · cases ht
  · unfold execBeatTimeout at ht
    split at ht
    · rename_i hp
      split at ht
      · exact h.timeoutBeat hs hp ht
      · cases ht
    · cases ht

/-! ### The link -/

theorem KeptByEvents.receiveLevel (h : KeptByEvents P) {s : State} (p l : Bool) (hs : P s)
    (hr : s.resetHeld = false) : P (receiveLevel p l s) := by
  unfold Machine.receiveLevel
  split
  · split
    · exact h.line s .sampling s.sl.linkIn 0 [] hs
    · exact hs
  · split
    · exact h.closeFrame true hs
    · exact hs
  · split
    · have h1 : P (s.setSl { s.sl with samples := s.sl.samples ++ [l] }) :=
        h.line s s.sl.line s.sl.linkIn s.sl.rxTime _ hs
      unfold afterSample
      split
      · exact h.closeFrame true h1
      · split
        · exact h.takeFrame _ (h.closeFrame _ h1) (by simpa using hr)
        · exact h1
    · exact hs

@[simp] theorem carryOut_resetHeld (op : Byte) (sel : Selection) (c : CommandBuffer) (s : State) :
    (carryOut (serviceOf op) sel c s).resetHeld = s.resetHeld := by
  have hf := (serviceOf_frame op c.payload (startExecution sel c s)).2.1
  unfold carryOut
  split
  all_goals rename_i he
  all_goals rw [he] at hf
  all_goals simpa [ServiceResult.state] using hf

theorem takeData_resetHeld (b : Byte) (s : State) : (takeData b s).resetHeld = s.resetHeld := by
  unfold takeData takeNext takeCheck
  repeat' split
  all_goals simp

theorem takeFrame_resetHeld (k : FrameKind) (s : State) : (takeFrame k s).resetHeld = s.resetHeld := by
  unfold takeFrame
  split
  all_goals simp [takeData_resetHeld]

theorem receiverPeriod_resetHeld (l : Bool) (s : State) : (receiverPeriod l s).resetHeld = s.resetHeld := by
  unfold receiverPeriod receiveLevel afterSample
  repeat' split
  all_goals simp [takeFrame_resetHeld]

theorem KeptByEvents.receiverPeriod (h : KeptByEvents P) {s : State} (l : Bool) (hs : P s)
    (hr : s.resetHeld = false) : P (receiverPeriod l s) := by
  unfold Machine.receiverPeriod
  have h1 := h.overdueGap (h.line s s.sl.line l s.sl.rxTime s.sl.samples hs)
  exact h.overdueGap (h.receiveLevel _ l h1 (by simpa [State.moveLine] using hr))

theorem KeptByEvents.transmitterPeriod (h : KeptByEvents P) {s : State} (hs : P s) : P (transmitterPeriod s) := by
  unfold Machine.transmitterPeriod
  split
  · exact hs
  · rename_i ht
    split
    · exact h.turnaroundEnd s hs ht
    · exact hs
  · rename_i k b p ht
    split
    · split
      · rename_i hb; exact h.nextBit s k b p hs ht hb
      · exact h.responseFrameEnd s k b p hs ht
    · exact hs

theorem KeptByEvents.linkPeriod (h : KeptByEvents P) {s : State} (f l : Bool) (hs : P s)
    (hr : s.resetHeld = false) : P (linkPeriod f l s) := by
  unfold Machine.linkPeriod
  split
  · exact h.transmitterPeriod (h.receiverPeriod l hs hr)
  · exact h.receiverPeriod l (h.transmitterPeriod hs) (by simpa using hr)

theorem memoryPeriod_resetHeld {s t : State} {m : Bool} {x y : Byte} (ht : memoryPeriod m x y s = .next t) :
    t.resetHeld = s.resetHeld := by
  unfold memoryPeriod lastStrobePeriod endSetup completeBeat timeoutBeat at ht
  repeat' split at ht
  all_goals cases ht
  all_goals simp

theorem linkPeriod_resetHeld (f l : Bool) (s : State) : (linkPeriod f l s).resetHeld = s.resetHeld := by
  unfold linkPeriod
  split
  all_goals simp [receiverPeriod_resetHeld]

theorem KeptByEvents.runPeriod (h : KeptByEvents P) {s t : State} {pf rf m l : Bool} {x y : Byte} (hs : P s)
    (hr : s.resetHeld = false) (ht : runPeriod pf rf m l x y s = .next t) : P t := by
  have h1 : P ((s.setPeriod (s.period + 1)).setSl s.sl.advance) := by
    have := h.clock _ (h.period s hs) (by simpa using hr)
    simpa using this
  unfold Machine.runPeriod at ht
  split at ht
  · unfold andThen at ht
    dsimp only at ht
    split at ht
    · rename_i u hu
      cases ht
      have h2 := h.memoryPeriod h1 hu
      exact h.linkPeriod rf l h2 (by rw [memoryPeriod_resetHeld hu]; simpa using hr)
    · cases ht
    · cases ht
  · exact h.memoryPeriod (h.linkPeriod rf l h1 (by simpa using hr)) ht

theorem KeptByEvents.idlePeriod (h : KeptByEvents P) {s t : State} (hs : P s) (ht : idlePeriod s = .next t) :
    P t := by
  unfold Machine.idlePeriod at ht
  split at ht
  · cases ht; exact h.period s hs
  · rename_i hr
    exact h.runPeriod hs (by simpa using hr) ht

/-! ### Commands -/

/-- The check byte the rows imply brings the running sum to 0 (R167). -/
@[simp] theorem addCheck_acceptedCheck (c : CommandBuffer) : (c.addCheck c.acceptedCheck).sum = 0 := by
  simp only [CommandBuffer.addCheck, CommandBuffer.acceptedCheck]
  apply BitVec.eq_of_toNat_eq
  simp only [BitVec.toNat_add, BitVec.toNat_sub]
  have : (0 : Byte).toNat = 0 := rfl
  omega

theorem hasOpcode_run {op : Byte} {c : CommandBuffer} (h : hasOpcode op c = true) :
    serviceOf c.opcode = serviceOf op := by
  rw [eq_of_beq h]

theorem isFollow_run {c : CommandBuffer} (h : isFollow c = true) : serviceOf c.opcode = serviceOf opSetBank := by
  unfold isFollow at h
  rw [Bool.and_eq_true] at h
  exact hasOpcode_run h.1

theorem isNow_run {c : CommandBuffer} (h : isNow c = true) : serviceOf c.opcode = serviceOf opSetBank := by
  unfold isNow at h
  rw [Bool.and_eq_true] at h
  exact hasOpcode_run h.1

theorem isUnknown_run {c : CommandBuffer} (h : isUnknown c = true) : serviceOf c.opcode = serviceBadOpcode := by
  unfold isUnknown isOpcode at h
  unfold serviceOf
  split
  · rfl
  · rename_i e he
    have h1 := List.find?_some he
    have h2 : (serviceTable.any fun e => e.1 == c.opcode) = true :=
      List.any_eq_true.mpr ⟨e, List.mem_of_find?_eq_some he, h1⟩
    rw [h2] at h
    cases h

/-- A service row carries out the execution its command's opcode names. -/
theorem KeptByEvents.serviceRow (h : KeptByEvents P) {s t : State} {isRow : CommandBuffer → Bool}
    {run : List Byte → State → ServiceResult} (hrun : ∀ c, isRow c = true → serviceOf c.opcode = run)
    (hs : P s) (ht : serviceRow isRow run s = .next t) : P t := by
  unfold Machine.serviceRow at ht
  split at ht
  · cases ht
  · rename_i hr
    split at ht
    · split at ht
      · cases ht
      · rename_i sel c hc
        split at ht
        · rename_i hrow
          cases ht
          unfold awaitingCheck at hc
          split at hc
          · rename_i h1 h2
            split at hc
            · rename_i h3
              cases hc
              rw [← hrun c hrow]
              exact h.service _ sel c c.acceptedCheck (h.frameEnded true hs) (by simpa using hr) h1 h2 h3
                (addCheck_acceptedCheck c)
            · cases hc
          all_goals cases hc
        · cases ht
    · cases ht

theorem whenSampling_keeps {s t u : State} (hs : P s)
    (hu : s.resetHeld = false → P u) (ht : whenSampling s (.next u) = .next t) : P t := by
  unfold Machine.whenSampling at ht
  split at ht
  · cases ht; exact hs
  · rename_i hr
    split at ht
    · cases ht; exact hu (by simpa using hr)
    · cases ht

theorem serviceOf_identify : serviceOf opIdentify = serviceIdentify := rfl
theorem serviceOf_readWindow : serviceOf opReadWindow = serviceReadWindow := rfl
theorem serviceOf_writeWindow : serviceOf opWriteWindow = serviceWriteWindow := rfl
theorem serviceOf_readProfile : serviceOf opReadProfile = serviceReadProfile := rfl
theorem serviceOf_writeProfile : serviceOf opWriteProfile = serviceWriteProfile := rfl
theorem serviceOf_readTrigger : serviceOf opReadTrigger = serviceReadTrigger := rfl
theorem serviceOf_writeTrigger : serviceOf opWriteTrigger = serviceWriteTrigger := rfl
theorem serviceOf_readGlobals : serviceOf opReadGlobals = serviceReadGlobals := rfl
theorem serviceOf_writeGlobals : serviceOf opWriteGlobals = serviceWriteGlobals := rfl
theorem serviceOf_copy : serviceOf opCopy = serviceCopy := rfl
theorem serviceOf_apply : serviceOf opApply = serviceApply := rfl
theorem serviceOf_readBank : serviceOf opReadBank = serviceReadBank := rfl
theorem serviceOf_setBank : serviceOf opSetBank = serviceSetBank := rfl
theorem serviceOf_cancel : serviceOf opCancel = serviceCancel := rfl
theorem serviceOf_readFaults : serviceOf opReadFaults = serviceReadFaults := rfl
theorem serviceOf_removeFaults : serviceOf opRemoveFaults = serviceRemoveFaults := rfl
theorem serviceOf_setAlert : serviceOf opSetAlert = serviceSetAlert := rfl
theorem serviceOf_readQueue : serviceOf opReadQueue = serviceReadQueue := rfl
theorem serviceOf_drain : serviceOf opDrain = serviceDrain := rfl
theorem serviceOf_linkStatus : serviceOf opLinkStatus = serviceLinkStatus := rfl

/-- A property that every event keeps is kept by every command that answers a next state. -/
theorem KeptByEvents.exec (h : KeptByEvents P) {s t : State} (i : Instr) (hs : P s) (ht : exec i s = .next t) :
    P t := by
  cases i with
  | accessArrival a =>
    change execAccessArrival a s = _ at ht
    unfold execAccessArrival at ht
    split at ht
    · rename_i hw
      split at ht
      · cases ht; exact hs
      · rename_i hr
        split at ht
        · rename_i hp
          exact h.arrival s a t hs (by simpa using hr) hp hw ht
        · cases ht; exact hs
        · cases ht; exact hs
    · cases ht
  | setupEnd =>
    change execSetupEnd s = _ at ht
    unfold execSetupEnd at ht
    split at ht
    · rename_i hp; exact h.endSetup hs hp ht
    · cases ht
  | readyWait =>
    change execReadyWait s = _ at ht
    unfold execReadyWait at ht
    split at ht
    · rename_i hp
      split at ht
      · rename_i hm; cases ht; exact h.wait s hs hp hm
      · cases ht
    · cases ht
  | beatComplete x y =>
    change execBeatComplete x y s = _ at ht
    unfold execBeatComplete at ht
    split at ht
    · rename_i hp; exact h.completeBeat hs hp ht
    · cases ht
  | beatTimeout =>
    change execBeatTimeout s = _ at ht
    exact h.removalReport (c := .timedOut) hs ht
  | recoveryEnd =>
    change execRecoveryEnd s = _ at ht
    unfold execRecoveryEnd at ht
    split at ht
    · rename_i hp; cases ht; exact h.recovery s hs hp
    · cases ht
  | spaceAdmission c =>
    change execSpaceAdmission c s = _ at ht
    unfold execSpaceAdmission at ht
    split at ht
    · split at ht
      · exact h.removalReport hs ht
      · cases ht
    · cases ht
  | moveToGrant c =>
    change execMoveToGrant c s = _ at ht
    unfold execMoveToGrant at ht
    split at ht
    · split at ht
      · exact h.removalReport hs ht
      · cases ht
    · cases ht
  | drainComplete c =>
    change execDrainComplete c s = _ at ht
    unfold execDrainComplete at ht
    split at ht
    · split at ht
      · exact h.removalReport hs ht
      · cases ht
    · cases ht
  | reset => cases ht; exact h.hold s hs
  | resetRelease p l r =>
    change execResetRelease p l r s = _ at ht
    unfold execResetRelease at ht
    split at ht
    · rename_i hr
      split at ht
      · rename_i hw
        split at ht
        · cases ht; exact h.release s p l hs hr
        · rename_i a
          exact h.arrival _ a t (h.release s p l hs hr) rfl rfl (by simpa [requestWellFormed] using hw) ht
      · cases ht
    · cases ht
  | addressFrame v =>
    exact whenSampling_keeps hs (fun hr => h.address _ v (h.frameEnded true hs) (by simpa using hr)) ht
  | dataFrame b =>
    exact whenSampling_keeps hs (fun hr => h.takeData b (h.frameEnded true hs) (by simpa using hr)) ht
  | badLength n =>
    change execBadLength n s = _ at ht
    unfold execBadLength at ht
    split at ht
    · cases ht
    · split at ht
      · cases ht
      · rename_i hr
        split at ht
        · split at ht
          · cases ht
          · rename_i sel c hc
            cases ht
            unfold awaitingLength at hc
            split at hc
            · rename_i h1 h2
              split at hc
              · cases hc
                exact h.badLength _ sel c (h.frameEnded true hs) (by simpa using hr) h1 h2
              · cases hc
            all_goals cases hc
        · cases ht
  | badCheck b =>
    change execBadCheck b s = _ at ht
    unfold execBadCheck at ht
    split at ht
    · cases ht
    · rename_i hr
      split at ht
      · split at ht
        · cases ht
        · rename_i sel c hc
          split at ht
          · cases ht
          · cases ht
            unfold awaitingCheck at hc
            split at hc
            · rename_i h1 h2
              split at hc
              · cases hc
                exact h.badCheck _ sel c (h.frameEnded true hs) (by simpa using hr) h1 h2
              · cases hc
            all_goals cases hc
      · cases ht
  | linkBreak =>
    exact whenSampling_keeps hs (fun hr => h.linkBreak _ (h.frameEnded false hs) (by simpa using hr)) ht
  | framingError m d =>
    change execFramingError m d s = _ at ht
    unfold execFramingError at ht
    split at ht
    · cases ht
    · exact whenSampling_keeps hs (fun hr => h.framingError _ (h.frameEnded false hs) (by simpa using hr)) ht
  | gapTimeout =>
    change execGapTimeout s = _ at ht
    unfold execGapTimeout at ht
    split at ht
    · rename_i hg; cases ht; exact h.gapTimeout s hs hg.1
    · cases ht
  | turnaroundEnd =>
    change execTurnaroundEnd s = _ at ht
    unfold execTurnaroundEnd at ht
    split at ht
    · rename_i hg; cases ht; exact h.turnaroundEnd s hs hg
    · cases ht
    · cases ht
  | responseFrameEnd =>
    change execResponseFrameEnd s = _ at ht
    unfold execResponseFrameEnd at ht
    split at ht
    · rename_i k b p hg; cases ht; exact h.responseFrameEnd s k b p hs hg
    · cases ht
    · cases ht
  | identify => exact h.serviceRow (fun _ hc => hasOpcode_run hc) hs ht
  | readWindow => exact h.serviceRow (fun _ hc => hasOpcode_run hc) hs ht
  | writeWindow => exact h.serviceRow (fun _ hc => hasOpcode_run hc) hs ht
  | readProfile => exact h.serviceRow (fun _ hc => hasOpcode_run hc) hs ht
  | writeProfile => exact h.serviceRow (fun _ hc => hasOpcode_run hc) hs ht
  | readTrigger => exact h.serviceRow (fun _ hc => hasOpcode_run hc) hs ht
  | writeTrigger => exact h.serviceRow (fun _ hc => hasOpcode_run hc) hs ht
  | readGlobals => exact h.serviceRow (fun _ hc => hasOpcode_run hc) hs ht
  | writeGlobals => exact h.serviceRow (fun _ hc => hasOpcode_run hc) hs ht
  | copyLiveToStaged => exact h.serviceRow (fun _ hc => hasOpcode_run hc) hs ht
  | applyTable => exact h.serviceRow (fun _ hc => hasOpcode_run hc) hs ht
  | readBank => exact h.serviceRow (fun _ hc => hasOpcode_run hc) hs ht
  | setBankFollow => exact h.serviceRow (fun _ hc => isFollow_run hc) hs ht
  | setBankNow => exact h.serviceRow (fun _ hc => isNow_run hc) hs ht
  | cancelPending => exact h.serviceRow (fun _ hc => hasOpcode_run hc) hs ht
  | readFaults => exact h.serviceRow (fun _ hc => hasOpcode_run hc) hs ht
  | removeFaults => exact h.serviceRow (fun _ hc => hasOpcode_run hc) hs ht
  | setAlert => exact h.serviceRow (fun _ hc => hasOpcode_run hc) hs ht
  | readQueue => exact h.serviceRow (fun _ hc => hasOpcode_run hc) hs ht
  | drain => exact h.serviceRow (fun _ hc => hasOpcode_run hc) hs ht
  | readLinkStatus => exact h.serviceRow (fun _ hc => hasOpcode_run hc) hs ht
  | badOpcode => exact h.serviceRow (fun _ hc => isUnknown_run hc) hs ht
  | fallingEdge =>
    change execFallingEdge s = _ at ht
    unfold execFallingEdge at ht
    split at ht
    · cases ht; exact hs
    · split at ht
      · cases ht; exact h.line s .sampling false 0 [] hs
      · cases ht; exact h.line s s.sl.line false s.sl.rxTime s.sl.samples hs
      · cases ht
  | falseStart =>
    change execFalseStart s = _ at ht
    unfold execFalseStart at ht
    split at ht
    · cases ht
    · split at ht
      · split at ht
        · cases ht; exact h.overdueGap (h.frameEnded true hs)
        · cases ht
      · cases ht
  | linkInputHigh =>
    change execLinkInputHigh s = _ at ht
    unfold execLinkInputHigh at ht
    split at ht
    · cases ht; exact hs
    · split at ht
      · cases ht; exact h.line s .hunt true 0 [] hs
      · cases ht; exact h.line s s.sl.line true s.sl.rxTime s.sl.samples hs
      · cases ht; exact h.line s s.sl.line true s.sl.rxTime s.sl.samples hs

/-- A property that every event keeps is kept by every step that answers a next state. -/
theorem KeptByEvents.step (h : KeptByEvents P) {s t : State} (hs : P s) (ht : step s = .next t) : P t := by
  unfold Machine.step at ht
  split at ht
  · exact h.idlePeriod hs ht
  · rename_i c rest _
    exact h.exec c (h.pending s rest hs) ht

end

end Sys2Proof.Machine
end

