-- ==== Sys2Proof/Tests/Slice0.lean ====
section
/-! SUPPORT. Tests on the spec's worked examples, and for every statement that has hypotheses a state and operands
that meet them. -/
namespace Sys2Proof.Tests
open Sys2Proof Sys2Proof.Machine

/-! ### The board of sections 2.9.1, 3.7.2 and 4.9.1 -/

def plain (base : LAddr) (e : Nat) (select : Fin 8) (phys : PAddr) (width : Width) (profile : Fin 8)
    (r w f : Bool) (order : Order) : WindowEntry :=
  { bootWindow with valid := true, logicalBase := base, sizeExp := e, select := select, physBase := phys,
                    width := width, profile := profile, rights := { read := r, write := w, fetch := f },
                    order := order }

def banked (base : LAddr) (e : Nat) (select : Fin 8) (phys : PAddr) (profile : Fin 8) (r w f : Bool) (count : Nat)
    (initial : Byte) (policy : CommitPolicy) (landing : LAddr) : WindowEntry :=
  { plain base e select phys .w16 profile r w f .relaxed with
    kind := .banked, bankCount := count, initialBank := initial, policy := policy, landing := landing }

def boardProfile (strobe : Nat) (mode : ReadyMode) (limit recovery : Nat) : Profile :=
  { setup := 1, strobe := strobe, mode := mode, limit := limit, recovery := recovery }

def boardSet : TableSet :=
  { windows := #v[plain 0 19 0 0 .w16 0 true false true .ordered,
                  plain 0x100000 8 1 0 .w16 1 false false false .relaxed,
                  plain 0x100000 18 1 0 .w16 1 true true true .relaxed,
                  plain 0x200000 12 6 0x0400000 .w8 3 true true false .ordered,
                  banked 0x800000 19 2 0 2 true false true 64 0 .onExit 0,
                  plain 0x13F000 12 3 0x0001000 .w8 3 true true false .ordered,
                  plain 0x900000 12 7 0 .w8 3 true true false .ordered,
                  banked 0x880000 16 4 0x0030000 2 true true false 256 0 .atOnce 0,
                  banked 0xA00000 18 3 0 2 true false true 16 2 .atLanding 0x40,
                  bootWindow, bootWindow, bootWindow, bootWindow, bootWindow, bootWindow, bootWindow]
    profiles := #v[boardProfile 1 .fixed 1 0, boardProfile 2 .ready 4 1, boardProfile 2 .ready 2 7,
                   boardProfile 3 .fixed 3 1, bootProfile, bootProfile, bootProfile, bootProfile]
    triggers := #v[{ enabled := true, addr := 0x13FF00, target := 4 }, { enabled := true, addr := 0x13FF01, target := 7 },
                   { enabled := true, addr := 0x13FF02, target := 7 }, { enabled := false, addr := 0, target := 0 }]
    globals := bootGlobals }

/-- The part after the APPLY_TABLE of the board's set. -/
def board : State :=
  applyStaged (State.reset.setStaged boardSet)

/-- The board's set with miss policy FILL (2.9.3). -/
def fillBoard : State :=
  { board with live := { boardSet with globals := { missPolicy := .fill, fillByte := 0 } } }

/-- The board with bank state k in window w. -/
def withBank (w : Fin 16) (k : BankState) : State :=
  { board with banks := board.banks.set w (some k) }

def fetch (a : LAddr) (l : Len) : Access := { start := a, len := l, kind := .fetch, data := [] }
def read (a : LAddr) (l : Len) : Access := { start := a, len := l, kind := .read, data := [] }
def write1 (a : LAddr) (x : Byte) : Access := { start := a, len := .one, kind := .write, data := [x] }
def write2 (a : LAddr) (x y : Byte) : Access := { start := a, len := .two, kind := .write, data := [x, y] }
def write4 (a : LAddr) (x y z w : Byte) : Access := { start := a, len := .four, kind := .write, data := [x, y, z, w] }

/-- The state a command answers next, or the state before it. -/
def after (c : Instr) (s : State) : State :=
  match exec c s with
  | .next t => t
  | .fault _ => s
  | .refused _ => s

/-- Whether a command answers a next state. -/
def runs (c : Instr) (s : State) : Bool :=
  match exec c s with
  | .next _ => true
  | .fault _ => false
  | .refused _ => false

/-- The frames of the response that stands after a command. -/
def replyOf (c : Instr) (s : State) : List Byte :=
  match (after c s).sl.response with
  | none => []
  | some r => r.frames

/-- The link of s selected as given, its receiver in a frame. -/
def listening (sel : Selection) (s : State) : State :=
  { s with sl := { s.sl with line := .sampling, receiver := .selected sel } }

/-- The command op with payload p complete, before its check frame. -/
def given (sel : Selection) (op : Byte) (p : List Byte) (s : State) : State :=
  { s with sl := { s.sl with
    line := .sampling, receiver := .selected sel
    command := some { opcode := op, length := some (BitVec.ofNat 8 p.length), payload := p,
                      sum := op + BitVec.ofNat 8 p.length + byteSum p } } }

theorem given_collected (sel : Selection) (op : Byte) (p : List Byte) (s : State) (h : s.resetHeld = false)
    (hp : p.length ≤ 60) : Collected (given sel op p s) sel op p :=
  ⟨⟨h, rfl⟩, rfl, hp, rfl⟩

/-! ### Well-formedness: an ill-formed term for each check -/

theorem test_wellFormed_refuses_short_write :
    (Instr.accessArrival { start := 0, len := .two, kind := .write, data := [1] }).wellFormed = false := by decide
theorem test_wellFormed_refuses_read_with_data :
    (Instr.accessArrival { start := 0, len := .one, kind := .read, data := [1] }).wellFormed = false := by decide
theorem test_wellFormed_refuses_fetch_with_data :
    (Instr.accessArrival { start := 0, len := .one, kind := .fetch, data := [1] }).wellFormed = false := by decide
theorem test_wellFormed_refuses_request_at_release :
    (Instr.resetRelease lowStraps true (some { start := 0, len := .four, kind := .write, data := [] })).wellFormed
      = false := by decide
theorem test_wellFormed_refuses_length_60 :
    (Instr.badLength 60).wellFormed = false ∧ (Instr.badLength 61).wellFormed = true := by decide
theorem test_wellFormed_refuses_break_as_framing_error :
    (Instr.framingError false 0).wellFormed = false ∧ (Instr.framingError true 0).wellFormed = true := by decide
theorem test_exec_refuses_ill_formed_terms :
    exec (.accessArrival { start := 0, len := .two, kind := .write, data := [1] }) board = .refused .illFormed ∧
    exec (.badLength 60) board = .refused .illFormed ∧
    exec (.framingError false 0) board = .refused .illFormed :=
  ⟨rfl, rfl, rfl⟩

/-! ### The worked examples of the spec -/

/-- 2.9.2, rows a to k. -/
theorem test_decode_examples :
    [fetch 0x000400 .two, write2 0x000400 0 0, read 0x100080 .four, read 0x100100 .four, read 0x1000FE .four,
      write1 0x13F010 0, read 0x200FFF .two, read 0x200FFF .one, fetch 0x300000 .four, read 0xFFFFFE .four,
      read 0x800010 .two].map (decodeAccess boardSet) =
    [.accepted 0, .rights 0, .rights 1, .accepted 2, .straddle (some 1), .accepted 2, .straddle (some 3), .accepted 3,
      .miss, .straddle none, .accepted 4] := by decide
/-- 2.9.2, the physical starts of rows a, d, f, h and, with bank 5 active, k. -/
theorem test_translate_examples :
    physicalStart boardSet board.banks 0 0x000400 = some 0x0000400 ∧
    physicalStart boardSet board.banks 2 0x100100 = some 0x0000100 ∧
    physicalStart boardSet board.banks 2 0x13F010 = some 0x003F010 ∧
    physicalStart boardSet board.banks 3 0x200FFF = some 0x0400FFF ∧
    physicalStart boardSet (withBank 4 { active := 5, pending := none }).banks 4 0x800010 = some 0x0280010 := by
  decide
/-- 4.3.1: one write, three triggers. -/
theorem test_capture_example :
    (after (.accessArrival (write4 0x13FF00 0x40 0x21 0x05 0x00)) board).banks =
      (board.banks.set 7 (some { active := 5, pending := none })) ∧
    (after (.accessArrival (write4 0x13FF00 0x40 0x21 0x05 0x00)) board).fl.records =
      [{ seq := 0, cause := .bankRange 4 64 0, access := .write, len := .four, start := 0x13FF00 }] := by decide
/-- 5.7.1: beat plans. -/
theorem test_plan_examples :
    planBeats 0x0001001 .four .w16 = [⟨0x0001001, .lane1 0⟩, ⟨0x0001002, .both 1 2⟩, ⟨0x0001004, .lane0 3⟩] ∧
    planBeats 0x0001002 .four .w16 = [⟨0x0001002, .both 0 1⟩, ⟨0x0001004, .both 2 3⟩] ∧
    planBeats 0x0400FFE .two .w8 = [⟨0x0400FFE, .lane0 0⟩, ⟨0x0400FFF, .lane0 1⟩] := by decide

/-- The write of 5.7.3 admitted, in the SETUP of its first beat; and in its STROBE. -/
def posted : State := after (.accessArrival (write2 0x100201 0x5A 0x6B)) board
def postedStrobe : State := after .setupEnd posted
/-- The read of 5.7.2 at its first beat, in window 2 of the board. -/
def reading : State := after (.accessArrival (read 0x100123 .four)) board
def readingStrobe : State := after .setupEnd reading
/-- A one-beat posted write in its STROBE. -/
def lastBeat : State := after .setupEnd (after (.accessArrival (write1 0x100200 0x77)) board)

theorem test_arrival_posted :
    posted.answer = some (.done #v[0, 0, 0, 0]) ∧ posted.pp = .idle ∧ posted.mp.phase = .setup ∧
    posted.mp.pins.addr = 0x0000201 ∧ posted.mp.pins.sel = some 1 ∧ posted.mp.pins.le0 = false ∧
    posted.mp.pins.le1 = true ∧ posted.mp.pins.data = some (0, 0x5A) := by decide
theorem test_setup_end : postedStrobe.mp.phase = .strobe ∧ postedStrobe.mp.pins.writeStrobe = true := by decide
theorem test_ready_wait : (after .readyWait postedStrobe).mp.strobeCount = 3 := by decide
theorem test_beat_complete :
    (after (.beatComplete 0x9F 0xA1) readingStrobe).pp =
      .active (read 0x100123 .four)
        { kind := .read, origin := .port, window := 2, logicalStart := 0x100123, select := 1, physStart := 0x0000123,
          len := .four, width := .w16, timing := boardProfile 2 .ready 4 1, order := .relaxed, data := [],
          beats := planBeats 0x0000123 .four .w16, beatsDone := 1 } [some 0xA1, none, none, none] := by decide
theorem test_beat_timeout :
    (after .beatTimeout (after .readyWait postedStrobe)).fl.records =
      [{ seq := 0, cause := .timeout true 2 1 0x0000201 2 0, access := .write, len := .two, start := 0x100201 }] ∧
    (after .beatTimeout (after .readyWait postedStrobe)).wq.entries = [] := by decide
theorem test_recovery_end :
    (after .recoveryEnd (after (.beatComplete 0 0) postedStrobe)).mp.pins.data = some (0x6B, 0) ∧
    (after .recoveryEnd (after (.beatComplete 0 0) lastBeat)).mp.phase = .idle := by decide

/-- Eight one-beat entries, the first in its STROBE, and a ninth write held for SPACE. -/
def fullQueue : State :=
  { lastBeat with wq := { entries := lastBeat.wq.entries.flatMap fun e => e ::
                            (List.range 7).map fun n => { e with seq := BitVec.ofNat 8 (n + 1), service := .waiting }
                          nextSeq := 8, highWater := 8, marker := none } }
def heldForRoom : State := after (.accessArrival (write1 0x100300 0x11)) fullQueue
/-- A read that waits for the one queued entry it overlaps; an ORDERED one that waits for the queue. -/
def heldOverlap : State := after (.accessArrival (read 0x100200 .one)) lastBeat
def heldEmpty : State := after (.accessArrival (fetch 0x000400 .two)) lastBeat
/-- A DRAIN waiting for the one queued entry. -/
def draining (sel : Selection) : State := after .drain (given sel 0x41 [] lastBeat)

theorem test_space_admission :
    (after (.spaceAdmission .completed) heldForRoom).answer = some (.done #v[0, 0, 0, 0]) ∧
    (after (.spaceAdmission .completed) heldForRoom).wq.entries.length = 8 ∧
    (after (.spaceAdmission .completed) heldForRoom).wq.nextSeq = 9 := by decide
theorem test_move_to_grant :
    runs (.moveToGrant .completed) heldOverlap = true ∧ runs (.moveToGrant .timedOut) heldEmpty = false ∧
    runs (.moveToGrant .timedOut) (after .readyWait heldEmpty) = true := by decide
theorem test_drain_complete :
    replyOf (.drainComplete .completed) (draining .addressed) = [0, 3, 1, 1, 0, 0xFB] ∧
    (after (.drainComplete .completed) (draining .broadcast)).sl.receiver = .selected .broadcast := by decide

def heldReset : State := after .reset posted
theorem test_reset : heldReset.wq.entries = [] ∧ heldReset.mp.pins = resetPins ∧ heldReset.live = bootSet .w8 := by
  decide
/-- 2.9.4, row 1, with the boot-width strap high. -/
theorem test_reset_release :
    (after (.resetRelease { lowStraps with bootWidth := true } false (some (fetch 0 .two))) heldReset).mp.pins.le1
      = true ∧
    (after (.resetRelease { lowStraps with bootWidth := true } false (some (fetch 0 .two))) heldReset).sl.line
      = .waitHigh := by decide

/-- 9.10.2, runs a to f, one command each. -/
theorem test_bad_check : replyOf (.badCheck 0xE6) (given .addressed 0x19 [] board) = [1, 0, 0xFF] := by decide
theorem test_bad_opcode : replyOf .badOpcode (given .addressed 0x7E [] board) = [2, 0, 0xFE] := by decide
/-- The opcode 0x11 taken, the length frame being received. -/
def awaiting (sel : Selection) : State :=
  { listening sel board with sl := { (listening sel board).sl with
    command := some { opcode := 0x11, length := none, payload := [], sum := 0x11 }, gapTimer := some 7 } }
theorem test_bad_length : replyOf (.badLength 0x3D) (awaiting .addressed) = [3, 0, 0xFD] := by decide
theorem test_address_frame :
    (after (.addressFrame 0) (listening .broadcast board)).sl.receiver = .selected .addressed ∧
    (after (.addressFrame 5) (listening .broadcast board)).sl.receiver = .unselected := by decide
theorem test_data_frame :
    ((after (.dataFrame 0x10) (listening .addressed board)).sl.gapTimer = some 0) ∧
    (after (.dataFrame 0) (after (.addressFrame 5) (listening .addressed board))).sl.counters = resetCounters := by
  decide
/-- The gap timer at 40 bit periods, no frame begun. -/
def gapOver : State :=
  { awaiting .addressed with sl := { (awaiting .addressed).sl with line := .hunt, gapTimer := some 1280 } }
theorem test_gap_timeout : (after .gapTimeout gapOver).sl.counters = { resetCounters with gaps := 1 } := by decide
/-- R168: an edge in the very period of the 40-bit point does not stop the timeout; it begins a frame. -/
theorem test_gap_timeout_before_edge :
    (receiverPeriod false gapOver).sl.counters = { resetCounters with gaps := 1 } ∧
    (receiverPeriod false gapOver).sl.receiver = .unselected ∧ (receiverPeriod false gapOver).sl.line = .sampling := by
  decide
theorem test_framing_error :
    (after (.framingError false 0x37) (listening .addressed board)).sl.counters = { resetCounters with framing := 1 } := by
  decide
theorem test_break :
    (after .linkBreak (listening .addressed board)).sl.receiver = .unselected ∧
    (after .linkBreak (listening .addressed board)).sl.line = .waitHigh := by decide
theorem test_falling_edge : (after .fallingEdge board).sl.line = .sampling := by decide
theorem test_false_start : (after .falseStart (after .fallingEdge board)).sl.line = .hunt := by decide
theorem test_link_input_high : (after .linkInputHigh (after .linkBreak (listening .addressed board))).sl.line = .hunt := by
  decide

/-- A response with no payload in turnaround, and in its last frame. -/
def responding : State := after .badOpcode (given .addressed 0x7E [] board)
def lastFrame (held : Option Byte) : State :=
  { responding with sl := { responding.sl with transmitter := .sending 2 10 31, heldOver := held } }
theorem test_turnaround_end :
    (after .turnaroundEnd responding).sl.transmitter = .sending 0 0 0 ∧
    linkOutput (after .turnaroundEnd responding).sl = false := by decide
theorem test_response_frame_end :
    (after .responseFrameEnd (lastFrame none)).sl.receiver = .selected .addressed ∧
    (after .responseFrameEnd (lastFrame (some 9))).sl.receiver = .unselected := by decide

/-- 10.8.1: the entry of window 8. -/
def entry8 : List Byte := [0x5B, 0x12, 0x23, 0, 0, 0xA0, 0, 0, 0, 0, 0x0F, 0x02, 0x02, 0x40, 0, 0]
theorem test_read_window :
    replyOf .readWindow (given .addressed 0x10 [0, 8] board) = [0, 16] ++ entry8 ++ [0x6D] := by decide
theorem test_write_window :
    (after (.dataFrame 0x53) (given .addressed 0x11 (8 :: entry8) State.reset)).staged.windows[8] =
      boardSet.windows[8] ∧
    replyOf .writeWindow (given .addressed 0x11 (8 :: entry8.set 2 0x2B) State.reset) = [5, 0, 0xFB] := by decide
theorem test_read_profile : replyOf .readProfile (given .addressed 0x12 [0, 1] board) = [0, 6, 1, 2, 1, 4, 0, 1, 0xF1] := by
  decide
theorem test_write_profile :
    replyOf .writeProfile (given .addressed 0x13 [7, 3, 16, 1, 0, 4, 7] board) = [0, 0, 0] ∧
    replyOf .writeProfile (given .addressed 0x13 [7, 3, 16, 1, 1, 4, 7] board) = [5, 0, 0xFB] := by decide
theorem test_read_trigger :
    replyOf .readTrigger (given .addressed 0x14 [0, 1] board) = [0, 5, 1, 0x01, 0xFF, 0x13, 7, 0xE0] := by decide
theorem test_write_trigger : replyOf .writeTrigger (given .addressed 0x15 [4, 1, 0, 0, 0, 7] board) = [4, 0, 0xFC] := by
  decide
theorem test_read_globals : replyOf .readGlobals (given .addressed 0x16 [1] board) = [0, 2, 0, 0xFF, 0xFF] := by decide
theorem test_write_globals :
    (after .writeGlobals (given .broadcast 0x17 [1, 0] board)).staged.globals = { missPolicy := .fill, fillByte := 0 } := by
  decide
/-- 9.10.1: the check 0xE8 of COPY_LIVE_TO_STAGED. -/
theorem test_copy :
    replyOf (.dataFrame 0xE8) (given .addressed 0x18 [] board) = [0, 0, 0] ∧
    (after .copyLiveToStaged (given .addressed 0x18 [] (board.setStaged (bootSet .w8)))).staged = boardSet := by decide
/-- 3.6.2, attempts A to D, and E. -/
def attempt (w6 : LAddr) (w7 : PAddr) (t1 t2 : LAddr) : TableSet :=
  ((((boardSet.setWindow 6 { boardSet.windows[6] with logicalBase := w6 }).setWindow 7
    { boardSet.windows[7] with physBase := w7 }).setTrigger 1 { enabled := true, addr := t1, target := 7 }).setTrigger 2
    { enabled := true, addr := t2, target := 7 })
theorem test_validation_examples :
    validate (attempt 0x900800 0x3F80000 0x13FF00 0x885000) = some (.logicalAlign, .window 6) ∧
    validate (attempt 0x900000 0x3F80000 0x13FF00 0x885000) = some (.physicalTop, .window 7) ∧
    validate (attempt 0x900000 0x0030000 0x13FF00 0x885000) = some (.triggerDuplicate, .trigger 1) ∧
    validate (attempt 0x900000 0x0030000 0x13FF01 0x885000) = some (.triggerSelf, .trigger 2) ∧
    validate (attempt 0x900000 0x0030000 0x13FF01 0x13FF02) = none := by decide
/-- 10.8.1: the answer to attempt B. -/
def failing : State := board.setStaged (attempt 0x900000 0x3F80000 0x13FF00 0x885000)
theorem test_apply : replyOf .applyTable (given .addressed 0x19 [] failing) = [6, 3, 3, 0, 7, 0xED] := by decide
/-- 10.8.1: window 8 at active 2, pending 5. -/
theorem test_read_bank :
    replyOf (.dataFrame 0xD7) (given .addressed 0x20 [8] (withBank 8 { active := 2, pending := some 5 })) =
      [0, 5, 0x0F, 2, 2, 1, 5, 0xE2] := by decide
theorem test_not_banked : replyOf .setBankFollow (given .addressed 0x21 [0, 9, 0] board) = [7, 0, 0xF9] := by decide
theorem test_set_bank_follow :
    (after .setBankFollow (given .addressed 0x21 [4, 63, 0] board)).banks[4] =
      some { active := 0, pending := some 63 } := by decide
theorem test_set_bank_now :
    (after .setBankNow (given .addressed 0x21 [4, 63, 1] board)).banks[4] = some { active := 63, pending := none } := by
  decide
theorem test_cancel_pending :
    (after .cancelPending (given .addressed 0x22 [8] (withBank 8 { active := 2, pending := some 5 }))).banks[8] =
      some { active := 2, pending := none } := by decide
/-- 8.8.2 at event 5, and the record of 10.8.1. -/
def timeoutRecord : FaultRecord :=
  { seq := 5, cause := .timeout true 2 4 0x0000011 1 0, access := .write, len := .one, start := 0x400011 }
def logged (n : Nat) : State :=
  { board with fl := { records := (List.range n).map fun i => { timeoutRecord with seq := BitVec.ofNat 8 (5 + i) },
                       overflow := true, nextSeq := BitVec.ofNat 8 (5 + n), alertEnable := true, alert := decide (0 < n) } }
theorem test_read_faults :
    replyOf .readFaults (given .addressed 0x30 [] (logged 1)) =
      [0, 18, 1, 1, 0x05, 0x04, 0x01, 0x12, 0x11, 0x00, 0x40, 0x02, 0x04, 0x11, 0, 0, 0, 1, 0, 0, 0x67] := by decide
theorem test_remove_faults :
    replyOf .removeFaults (given .addressed 0x31 [8] (logged 6)) = [0, 2, 6, 0, 0xF8] ∧
    (after .removeFaults (given .addressed 0x31 [8] (logged 6))).fl.overflow = false ∧
    (after .removeFaults (given .addressed 0x31 [3] (logged 8))).fl.alert = true := by decide
theorem test_set_alert :
    (after .setAlert (given .addressed 0x32 [0] (logged 1))).fl.alert = false ∧
    replyOf .setAlert (given .addressed 0x32 [2] (logged 1)) = [5, 0, 0xFB] := by decide
theorem test_read_queue : replyOf .readQueue (given .addressed 0x40 [1] fullQueue) = [0, 4, 8, 8, 0, 8, 0xE4] := by decide
theorem test_drain :
    (draining .addressed).wq.marker =
      some { first := 0, last := 0, marked := 1, completed := 0, timedOut := 0 } ∧
    ((draining .addressed).sl.command.map fun c => c.sum) = some 0 ∧
    replyOf .drain (given .addressed 0x41 [] board) = [0, 3, 0, 0, 0, 0xFD] := by decide
theorem test_link_status :
    replyOf .readLinkStatus (given .addressed 0x50 [1] { board with sl := { board.sl with
      counters := { framing := 1, badChecks := 1, gaps := 1, ignored := 2, breaks := 0 } } }) =
      [0, 5, 1, 1, 1, 2, 0, 0xF6] := by decide
theorem test_identify :
    replyOf .identify (given .addressed 0x01 [] board) =
      [0, 11, 0x16, 0x24, 1, 0, 0, 8, 16, 8, 4, 8, 8, 0x86] := by decide

/-! ### Witnesses: the hypotheses of every statement that has some, each clause at its boundary -/

theorem board_banks : BanksSound board :=
  BanksSound.applied (s := State.reset.setStaged boardSet) (by decide)

theorem arrives (s : State) (a : Access) (h1 : s.resetHeld = false) (h2 : s.pp = .idle) (h3 : a.wellFormed = true) :
    MayArrive s a :=
  ⟨h1, h2, h3⟩

theorem witness_EmptyQueueIsOnePeriod :
    board.pending = [] ∧ board.resetHeld = false ∧ heldReset.pending = [] ∧ heldReset.resetHeld = true := by decide
theorem witness_ResetAndRelease :
    heldReset.resetHeld = true ∧ (read 0xFFFFFC .four).wellFormed = true ∧
    (read 0xFFFFFC .four).start.toNat + Len.four.bytes ≤ 2 ^ 24 := by decide
theorem witness_AccessPastTopStraddles :
    [read 0xFFFFFE .two, read 0xFFFFFF .two, read 0xFFFFFC .four, read 0xFFFFFD .four, read 0xFFFFFF .one].map
      (fun a => decodeAccess boardSet a == .straddle none) = [false, true, false, true, false] := by decide
theorem witness_LowestWindowContainingStartIsHit :
    [0x0FFFFF, 0x100000, 0x1000FF, 0x100100, 0x13FFFF, 0x140000].map (hitWindow boardSet) =
      [none, some 1, some 1, some 2, some 2, none] := by decide
theorem witness_DecodingChecksInOrder :
    decodeAccess boardSet (read 0xFFFFFF .one) = .miss ∧ hitWindow boardSet 0x07FFFE = some 0 ∧
    decodeAccess boardSet (read 0x07FFFE .two) = .accepted 0 ∧
    decodeAccess boardSet (read 0x07FFFF .two) = .straddle (some 0) ∧
    decodeAccess boardSet (write1 0x07FFFF 0) = .rights 0 ∧
    (boardSet.windows[0].holds 0x07FFFF ∧ ¬ boardSet.windows[0].holds 0x080000) ∧
    boardSet.windows[0].rights.include .read ∧ ¬ boardSet.windows[0].rights.include .write := by
  unfold Rights.include
  decide
theorem witness_TranslationStaysInTheSelect :
    LiveValid board ∧ BanksSound board ∧ decodeAccess board.live (read 0x200FFF .one) = .accepted 3 ∧
    board.live.windows[3].kind = .plain ∧ decodeAccess board.live (read 0x87FFFE .two) = .accepted 4 ∧
    board.live.windows[4].kind = .banked :=
  ⟨by unfold LiveValid; decide, board_banks, by decide, by decide, by decide, by decide⟩
/-- Window 4 (ON_EXIT) at its four boundary bytes and window 8 (AT_LANDING) beside and at its landing address. -/
theorem witness_FetchCommitsPendingBanks :
    (([0x7FFFFF, 0x800000, 0x87FFFF, 0x880000] : List LAddr).map fun a =>
      (arrived (withBank 4 { active := 0, pending := some 9 }) (fetch a .one)).banks[4].map fun k => k.active) =
      [some 9, some 0, some 0, some 9] ∧
    (([0xA0003F, 0xA00040] : List LAddr).map fun a =>
      (arrived (withBank 8 { active := 2, pending := some 5 }) (fetch a .one)).banks[8].map fun k => k.active) =
      [some 2, some 5] ∧
    board.banks[7] = some { active := 0, pending := none } ∧ board.live.windows[7].policy = .atOnce := by decide
theorem witness_TriggerByteIsCaptured :
    (write1 0x13FF00 63).data[0]? = some 63 ∧ board.live.triggers[0].enabled = true ∧
    board.live.triggers[0].addr.toNat = (write1 0x13FF00 63).start.toNat + 0 ∧
    (∀ m : Fin 4, board.live.triggers[m].enabled = true → 0x13FF00 ≤ board.live.triggers[m].addr.toNat →
      board.live.triggers[m].addr.toNat < 0x13FF00 + 1 → m = 0) ∧
    board.banks[board.live.triggers[0].target] = some { active := 0, pending := none } ∧
    63 < board.live.windows[board.live.triggers[0].target].bankCount ∧
    board.live.windows[board.live.triggers[0].target].bankCount ≤ 64 ∧
    (∀ m : Fin 4, board.live.triggers[m].enabled = true →
      ¬ (0x13FF03 ≤ board.live.triggers[m].addr.toNat ∧ board.live.triggers[m].addr.toNat < 0x13FF03 + 1)) := by decide
/-- R62: three triggers met by one write, the first candidate refused, the later two for the same window. -/
theorem witness_TriggerByteIsCaptured_several :
    (∀ i j : Fin 4, board.live.triggers[i].enabled = true → board.live.triggers[j].enabled = true →
      board.live.triggers[i].addr = board.live.triggers[j].addr → i = j) ∧
    candidates board.live (write4 0x13FF00 0x40 0x21 0x05 0x00) = [(0, 0x40), (1, 0x21), (2, 0x05)] ∧
    ((candidates board.live (write4 0x13FF00 0x40 0x21 0x05 0x00)).map (inCount board.live)) = [false, true, true] := by
  decide
theorem witness_RefusedOrFilledAccessIsAnswered :
    MayArrive board (read 0xFFFFFE .four) ∧ decodeAccess board.live (read 0xFFFFFE .four) = .straddle none ∧
    MayArrive board (read 0x100080 .four) ∧ decodeAccess board.live (read 0x100080 .four) = .rights 1 ∧
    MayArrive board (fetch 0x300000 .four) ∧ decodeAccess board.live (fetch 0x300000 .four) = .miss ∧
    board.live.globals.missPolicy = .error ∧ MayArrive fillBoard (fetch 0x300000 .four) ∧
    decodeAccess fillBoard.live (fetch 0x300000 .four) = .miss ∧ fillBoard.live.globals.missPolicy = .fill :=
  ⟨⟨rfl, rfl, rfl⟩, by decide, ⟨rfl, rfl, rfl⟩, by decide, ⟨rfl, rfl, rfl⟩, by decide, by decide, ⟨rfl, rfl, rfl⟩,
    by decide, by decide⟩
theorem witness_PostedWriteJoinsTheQueue :
    MayArrive board (write1 0x13F010 0) ∧ decodeAccess board.live (write1 0x13F010 0) = .accepted 2 ∧
    board.live.windows[2].order = .relaxed ∧ physicalStart board.live board.banks 2 0x13F010 = some 0x003F010 ∧
    (board.wq.entries = [] ∧ board.mp.phase = .idle) ∧
    (MayArrive posted (write1 0x13F010 0) ∧ posted.wq.entries.length < 8 ∧ posted.mp.phase ≠ .idle) ∧
    (MayArrive fullQueue (write1 0x13F010 0) ∧ fullQueue.wq.entries.length = 8) :=
  ⟨⟨rfl, rfl, rfl⟩, by decide, by decide, by decide, by decide, ⟨arrives _ _ (by decide) (by decide) rfl, by decide⟩,
    ⟨arrives _ _ (by decide) (by decide) rfl, by decide⟩⟩
theorem witness_CarriedAccessStartsOrWaits :
    MayArrive board (fetch 0x000400 .two) ∧ decodeAccess board.live (fetch 0x000400 .two) = .accepted 0 ∧
    board.live.windows[0].order = .ordered ∧
    physicalStart board.live (arrived board (fetch 0x000400 .two)).banks 0 0x000400 = some 0x0000400 ∧
    (board.mp.phase = .idle ∧ board.wq.entries = []) ∧
    MayArrive lastBeat (fetch 0x000400 .two) ∧ lastBeat.mp.phase ≠ .idle ∧
    (heldEmpty.pp ≠ .idle ∧ heldOverlap.pp ≠ .idle) :=
  ⟨⟨rfl, rfl, rfl⟩, by decide, by decide, by decide, by decide, arrives _ _ (by decide) (by decide) rfl, by decide,
    by decide⟩
theorem witness_RequestToABusyPortIsNotSeen :
    (read 0 .one).wellFormed = true ∧ reading.pp ≠ .idle ∧ heldForRoom.pp ≠ .idle ∧ heldReset.resetHeld = true := by
  decide
theorem witness_BeatPlanCarriesEachByteOnce :
    (0x3FFFFFC : PAddr).toNat + Len.four.bytes ≤ 2 ^ 26 ∧ (0x3FFFFFF : PAddr).toNat + Len.one.bytes ≤ 2 ^ 26 ∧
    (planBeats 0x3FFFFFC .four .w16).length = 2 ∧ (planBeats 0x1001 .four .w16).length = 3 := by decide
theorem witness_StrobePhasesBegin :
    posted.mp.phase = .setup ∧ (∃ t b, currentBeat posted = some (t, b)) ∧ postedStrobe.mp.phase = .strobe ∧
    postedStrobe.mp.timing.mode = .ready ∧ postedStrobe.mp.timing.strobe < postedStrobe.mp.timing.limit :=
  ⟨by decide, ⟨_, _, rfl⟩, by decide⟩

/-- The last beats of a one-byte read and of an ORDERED write (width 8, FIXED), and beats whose limit is the strobe. -/
def readLast : State := after .setupEnd (after (.accessArrival (read 0x100200 .one)) board)
def writeLast : State := after .setupEnd (after (.accessArrival (write1 0x200000 0x5A)) board)
def portAtLimit : State := after .setupEnd (after (.accessArrival (read 0x800010 .one)) board)
def queueAtLimit : State := after .setupEnd (after (.accessArrival (write1 0x880000 1)) board)

/-- The record, access and collected operand that PP holds (those of a one-byte read where it holds none). -/
def portTxn (s : State) : Txn :=
  match s.pp with
  | .active _ t _ => t
  | .held _ t _ => t
  | .idle => recordOf board 2 (read 0x100000 .one) 0
def portAccess (s : State) : Access :=
  match s.pp with
  | .active a _ _ => a
  | .held a _ _ => a
  | .idle => read 0 .one
def portBytes (s : State) : List (Option Byte) :=
  match s.pp with
  | .active _ _ c => c
  | .held _ _ _ => []
  | .idle => []
def beatOf (s : State) (t : Txn) : Beat :=
  t.beats.getD s.mp.beatIndex { addr := 0, lanes := .lane0 0 }
def head (s : State) : QueueEntry :=
  s.wq.entries.headD { seq := 0, service := .waiting, txn := portTxn s }
def portBeatAt (s : State) : Prop :=
  PortBeat s (portAccess s) (portTxn s) (portBytes s) (beatOf s (portTxn s))
def queueBeatAt (s : State) : Prop :=
  QueueBeat s (head s) s.wq.entries.tail (beatOf s (head s).txn)

theorem witness_PortBeatCompletes :
    (portBeatAt readingStrobe ∧ (portTxn readingStrobe).beatsDone + 1 ≠ (portTxn readingStrobe).beats.length) ∧
    (portBeatAt readLast ∧ (portTxn readLast).beatsDone + 1 = (portTxn readLast).beats.length ∧
      (portTxn readLast).kind ≠ .write) ∧
    (portBeatAt writeLast ∧ (portTxn writeLast).beatsDone + 1 = (portTxn writeLast).beats.length ∧
      (portTxn writeLast).kind = .write ∧ portBytes writeLast = []) ∧
    planBeats 0x1001 .two .w16 = [⟨0x1001, .lane1 0⟩, ⟨0x1002, .lane0 1⟩] := by
  unfold portBeatAt PortBeat
  decide
theorem witness_QueueBeatCompletes :
    (queueBeatAt postedStrobe ∧ (head postedStrobe).txn.beatsDone + 1 ≠ (head postedStrobe).txn.beats.length) ∧
    (queueBeatAt lastBeat ∧ (head lastBeat).txn.beatsDone + 1 = (head lastBeat).txn.beats.length) := by
  unfold queueBeatAt QueueBeat
  decide
theorem witness_BeatTimeoutIsAnsweredOrRemovesTheHead :
    (portBeatAt portAtLimit ∧ portAtLimit.mp.timing.mode = .ready ∧
      portAtLimit.mp.timing.limit ≤ portAtLimit.mp.timing.strobe) ∧
    (portBeatAt (after .readyWait readingStrobe) ∧ (after .readyWait readingStrobe).mp.phase = .readyWait) ∧
    (queueBeatAt queueAtLimit ∧ queueAtLimit.mp.timing.limit ≤ queueAtLimit.mp.timing.strobe) ∧
    (queueBeatAt (after .readyWait lastBeat) ∧ (after .readyWait lastBeat).mp.phase = .readyWait) := by
  unfold portBeatAt queueBeatAt PortBeat QueueBeat
  decide

/-- RECOVERY after a beat of a read with more beats; after a removal with a held access, with more entries, with
neither. -/
def midRead : State := after (.beatComplete 1 2) readingStrobe
def thenPort : State := after (.moveToGrant .completed) heldOverlap
def thenHead : State := after (.beatComplete 0 0) fullQueue
def thenIdle : State := after (.beatComplete 0 0) lastBeat

theorem witness_RecoveryEndsInNextBeatOrGrant :
    (midRead.mp.phase = .recovery ∧ midRead.mp.outcome = .complete ∧ midRead.mp.current = some .port ∧
      currentTxn midRead = some (portTxn midRead) ∧ (portTxn midRead).timing = midRead.mp.timing ∧
      midRead.mp.beatIndex + 1 < (portTxn midRead).beats.length) ∧
    (thenPort.mp.phase = .recovery ∧ currentTxn thenPort = none ∧
      thenPort.pp = .held (portAccess thenPort) (portTxn thenPort) .grant ∧ (portTxn thenPort).beatsDone = 0 ∧
      (portTxn thenPort).beats ≠ []) ∧
    (thenHead.mp.phase = .recovery ∧ currentTxn thenHead = none ∧ thenHead.pp = .idle ∧
      thenHead.wq.entries = head thenHead :: thenHead.wq.entries.tail ∧ (head thenHead).service = .waiting ∧
      (head thenHead).txn.beatsDone = 0 ∧ (head thenHead).txn.beats ≠ []) ∧
    (thenIdle.mp.phase = .recovery ∧ currentTxn thenIdle = none ∧ thenIdle.pp = .idle ∧ thenIdle.wq.entries = []) := by
  decide

/-- The full queue under a drain marker over all eight entries. -/
def fullDrain : State :=
  { fullQueue with wq := { fullQueue.wq with
    marker := some { first := 0, last := 7, marked := 8, completed := 0, timedOut := 0 } } }

theorem witness_RemovalAdmitsGrantsAndDrains :
    fullQueue.wq.entries = head fullQueue :: fullQueue.wq.entries.tail ∧
    heldForRoom.pp = .held (portAccess heldForRoom) (portTxn heldForRoom) .space ∧
    heldOverlap.pp = .held (portAccess heldOverlap) (portTxn heldOverlap) .overlap ∧
    heldEmpty.pp = .held (portAccess heldEmpty) (portTxn heldEmpty) .empty ∧ fullQueue.wq.marker = none ∧
    ((head fullDrain).seq ≠ 7 ∧ ((head fullDrain).seq - 0).toNat ≤ ((7 : Byte) - 0).toNat) ∧
    ((draining .addressed).wq.marker.map fun m => m.last) = some (head (draining .addressed)).seq ∧
    (draining .addressed).sl.receiver = .executing .addressed ∧
    (draining .broadcast).sl.receiver = .executing .broadcast := by
  decide
theorem witness_RemovalRowsAreTheRemovingReport :
    (queueBeatAt heldForRoom ∧ (head heldForRoom).txn.beatsDone + 1 = (head heldForRoom).txn.beats.length) ∧
    (queueBeatAt heldOverlap ∧ heldOverlap.wq.entries.tail = []) ∧
    (queueBeatAt heldEmpty ∧ heldEmpty.wq.entries.tail = []) ∧ queueBeatAt (draining .addressed) ∧
    heldForRoom.mp.timing.mode = .ready ∧ (after .readyWait heldForRoom).mp.phase = .readyWait := by
  unfold queueBeatAt QueueBeat
  decide
theorem witness_PhasesLastTheirPeriods :
    (writeLast.mp.phase = .strobe ∧ writeLast.mp.timing.mode = .fixed ∧ writeLast.mp.strobeCount = 1 ∧
      writeLast.mp.phaseCount = 1 ∧ 1 ≤ writeLast.mp.timing.strobe) ∧
    (readingStrobe.mp.phase = .strobe ∧ readingStrobe.mp.timing.mode = .ready ∧ readingStrobe.mp.strobeCount = 1 ∧
      readingStrobe.mp.phaseCount = 1 ∧ 1 ≤ readingStrobe.mp.timing.strobe ∧
      readingStrobe.mp.timing.strobe < readingStrobe.mp.timing.limit) ∧
    (portAtLimit.mp.phase = .strobe ∧ portAtLimit.mp.timing.mode = .ready ∧ portAtLimit.mp.strobeCount = 1 ∧
      portAtLimit.mp.phaseCount = 1 ∧ 1 ≤ portAtLimit.mp.timing.strobe ∧
      portAtLimit.mp.timing.limit = portAtLimit.mp.timing.strobe) ∧
    (posted.mp.phase = .setup ∧ posted.mp.phaseCount = 1 ∧ 1 ≤ posted.mp.timing.setup) ∧
    (midRead.mp.phase = .recovery ∧ midRead.mp.phaseCount = 1 ∧ 1 ≤ midRead.mp.timing.recovery) := by decide
/-- R107: MRDY first sampled high in the last STROBE period, and in the period numbered by the limit. -/
theorem witness_PhasesLastTheirPeriods_ready :
    (readingStrobe.mp.timing.strobe = 2 ∧ readingStrobe.mp.timing.limit = 4) ∧
    (∀ k, 2 ≤ k + 1 → k + 1 < 2 → decide (k = 1) = false) ∧ (∀ k, 2 ≤ k + 1 → k + 1 < 4 → decide (k = 3) = false) ∧
    decide (2 - 1 = 1) = true ∧ decide (4 - 1 = 3) = true :=
  ⟨by decide, fun k h1 h2 => by simp; omega, fun k h1 h2 => by simp; omega, by decide, by decide⟩

/-- A command being collected, the gap timer one period short of 40 bit periods. -/
def nearGap : State :=
  { awaiting .addressed with sl := { (awaiting .addressed).sl with gapTimer := some 1279 } }
/-- The receiver waiting for a high input, and the gap timer running there. -/
def lineLow : State := after .linkBreak (listening .addressed board)
/-- A response in turnaround and being sent, with a frame being received. -/
def hearing (t : Transmitter) : State :=
  { responding with sl := { responding.sl with line := .sampling, transmitter := t } }

/-- A frame begun in which the gap timer has passed 40 bit periods. -/
def overdue : State := { gapOver with sl := { gapOver.sl with line := .sampling } }

theorem witness_LineEventsMoveTheFrameReceiver :
    (board.resetHeld = false ∧ board.sl.line = .hunt) ∧ (after .fallingEdge board).sl.line = .sampling ∧
    (lineLow.resetHeld = false ∧ lineLow.sl.line = .waitHigh) ∧ InFrame nearGap ∧ nearGap.sl.samples.length < 3 ∧
    (∀ n, nearGap.sl.gapTimer = some n → n < 40 * linkDivisor nearGap.straps) ∧
    (InFrame overdue ∧ overdue.sl.samples.length < 3 ∧ overdue.sl.gapTimer = some 1280 ∧
      40 * (32 * 2 ^ overdue.straps.rateValue) ≤ 1280) ∧ heldReset.resetHeld = true :=
  ⟨by decide, by decide, by decide, ⟨rfl, rfl⟩, by decide, fun n h => by cases h; decide,
    ⟨⟨rfl, rfl⟩, by decide, rfl, by decide⟩, by decide⟩
/-- Periods in HUNT after a high and after a low level, and in WAIT_HIGH, with the gap timer short of 40 bits or
stopped. -/
theorem witness_LineEventsMoveTheFrameReceiver_periods :
    (NoGapTimeout { nearGap with sl := { nearGap.sl with line := .hunt } } ∧ nearGap.sl.linkIn = true) ∧
    (NoGapTimeout { board with sl := { board.sl with linkIn := false } } ∧ board.sl.line = .hunt) ∧
    (NoGapTimeout lineLow ∧ lineLow.sl.line = .waitHigh) :=
  ⟨⟨Or.inr fun n h => (by cases h; decide), rfl⟩, ⟨Or.inr fun n h => (by cases h), rfl⟩,
    ⟨Or.inr fun n h => (by cases h), rfl⟩⟩

/-- The unit selected ADDRESSED, the frame of these eleven bits sampled up to its last sample, at the instant of that
sample; and a frame whose third sample comes next, the first two high. -/
def lastSample (bits : List Bool) : State :=
  { listening .addressed board with sl := { (listening .addressed board).sl with
    rxTime := 338, samples := (bits.flatMap fun b => [b, b, b]).take 32 } }
def startSample (s : State) : State :=
  { s with sl := { s.sl with rxTime := 18, samples := [true, true] } }

theorem at_instant (t k j : Nat) (h1 : 7 ≤ j) (h2 : j ≤ 9) (h : t * 16 = (16 * k + j) * (32 * 2 ^ 0)) :
    SampledAt board.straps t :=
  ⟨k, j, h1, h2, h⟩
theorem between_instants (t : Nat) (h : t % 2 = 1 ∨ t / 2 % 16 < 7 ∨ 9 < t / 2 % 16) : ¬ SampledAt board.straps t := by
  rintro ⟨k, j, h1, h2, h3⟩
  have h0 : board.straps.rateValue = 0 := rfl
  rw [h0] at h3
  omega
theorem witness_SampledFrameIsTheFrameSent :
    decidedBits [true, false, false, true, true, false, false, false, false] = [false, true, false] ∧
    (SampledAt board.straps 14 ∧ SampledAt board.straps 18 ∧ SampledAt board.straps 338) ∧
    (¬ SampledAt board.straps 13 ∧ ¬ SampledAt board.straps 15 ∧ ¬ SampledAt board.straps 20) ∧
    ((startSample nearGap).sl.line = .sampling ∧ (startSample nearGap).sl.samples.length + 1 = 3 ∧
      decidedBits ((startSample nearGap).sl.samples ++ [false]) = [true]) ∧
    ((startSample overdue).sl.gapTimer = some 1280 ∧ 40 * (32 * 2 ^ (startSample overdue).straps.rateValue) ≤ 1280) :=
  ⟨by decide, ⟨at_instant 14 0 7 (by decide) (by decide) rfl, at_instant 18 0 9 (by decide) (by decide) rfl,
    at_instant 338 10 9 (by decide) (by decide) rfl⟩,
    ⟨between_instants 13 (by decide), between_instants 15 (by decide), between_instants 20 (by decide)⟩, by decide,
    rfl, by decide⟩
/-- The 33rd sample of a frame with start bit, byte, mark and stop bit. -/
theorem at_last_sample (bits : List Bool) : InFrame (lastSample bits) ∧
    LinkSound (lastSample bits).sl (lastSample bits).wq.marker :=
  ⟨⟨rfl, rfl⟩, rfl, rfl, rfl, rfl, rfl, fun c h => by cases h⟩
def bitsOf (data : Byte) (mark stop : Bool) : List Bool :=
  [false] ++ (List.range 8).map data.getLsbD ++ [mark, stop]
theorem witness_SampledFrameIsTheFrameSent_taken :
    ∀ mark stop : Bool, ∀ data ∈ ([0x00, 0x37, 0xFF] : List Byte),
      (lastSample (bitsOf data mark stop)).sl.samples.length + 1 = 33 ∧
      decidedBits ((lastSample (bitsOf data mark stop)).sl.samples ++ [stop]) = bitsOf data mark stop := by decide
theorem witness_AddressFrameSelectsTheUnit :
    InFrame (hearing (.sending 0 0 0)) ∧ InFrame (hearing .turnaround) ∧
    (hearing .turnaround).sl.transmitter = .turnaround ∧ InFrame (listening .broadcast board) ∧
    (listening .broadcast board).sl.transmitter = .off :=
  ⟨⟨rfl, rfl⟩, ⟨rfl, rfl⟩, rfl, ⟨rfl, rfl⟩, rfl⟩
theorem witness_BreakFramingErrorAndGapTimeout :
    InFrame nearGap ∧ ((true = true ∨ (0 : Byte) ≠ 0) ∧ (false = true ∨ (0x37 : Byte) ≠ 0)) ∧
    gapOver.sl.gapTimer = some 1280 ∧ gapOver.sl.line ≠ .sampling ∧ 40 * (32 * 2 ^ gapOver.straps.rateValue) ≤ 1280 :=
  ⟨⟨rfl, rfl⟩, by decide, rfl, by decide, by decide⟩
theorem witness_DataFrameByReceiverState :
    InFrame (hearing .turnaround) ∧ (hearing .turnaround).sl.receiver = .responding ∧
    InFrame (listening .addressed board) ∧ (listening .addressed board).sl.command = none ∧
    InFrame (awaiting .broadcast) ∧
    (awaiting .broadcast).sl.command = some { opcode := 0x11, length := none, payload := [], sum := 0x11 } ∧
    (60 : Byte).toNat ≤ 60 ∧ (draining .addressed).sl.receiver = .executing .addressed :=
  ⟨⟨rfl, rfl⟩, rfl, ⟨rfl, rfl⟩, rfl, ⟨rfl, rfl⟩, rfl, by decide, by decide⟩
theorem witness_LengthAboveSixtyEndsCollection :
    InFrame (awaiting .addressed) ∧ (awaiting .addressed).sl.receiver = .selected .addressed ∧
    InFrame (awaiting .broadcast) ∧ (awaiting .broadcast).sl.receiver = .selected .broadcast ∧ 60 < (61 : Byte).toNat :=
  ⟨⟨rfl, rfl⟩, rfl, ⟨rfl, rfl⟩, rfl, by decide⟩
theorem witness_CheckNotAcceptedDiscardsTheCommand :
    Collected (given .addressed 0x19 [] board) .addressed 0x19 [] ∧
    Collected (given .broadcast 0x19 (List.replicate 60 7) board) .broadcast 0x19 (List.replicate 60 7) ∧
    byteSum ([0x19, BitVec.ofNat 8 0] ++ [] ++ [0xE6]) ≠ 0 :=
  ⟨given_collected _ _ _ _ rfl (by decide), given_collected _ _ _ _ rfl (by decide), by decide⟩
theorem witness_ResponseFramesAreSentInOrder :
    responding.sl.transmitter = .turnaround ∧ (lastFrame none).sl.transmitter = .sending 2 10 31 ∧
    (∃ r, (lastFrame none).sl.response = some r ∧ 2 + 1 = r.payload.length + 3 ∧ 1 + 1 < r.payload.length + 3) ∧
    (lastFrame (some 31)).sl.heldOver = some 31 :=
  ⟨rfl, rfl, ⟨_, rfl, by decide⟩, rfl⟩
/-- The last period of a turnaround and the one after it, the last period of a bit and the one after it, and a byte of
the response on the line. -/
theorem witness_ResponseFramesAreSentInOrder_periods :
    (63 < 2 * (32 * 2 ^ responding.straps.rateValue) ∧ 2 * (32 * 2 ^ responding.straps.rateValue) ≤ 64) ∧
    (31 < 32 * 2 ^ responding.straps.rateValue ∧ 32 * 2 ^ responding.straps.rateValue ≤ 32) ∧
    (∃ r, (lastFrame none).sl.response = some r ∧ r.frames[2]? = some 0xFE) :=
  ⟨by decide, by decide, _, rfl, rfl⟩
theorem witness_WrongLengthAndUnknownOpcodeAreRefused :
    (∀ r ∈ serviceRows, Collected (given .addressed r.2.1 (List.replicate 18 0) board) .addressed r.2.1
      (List.replicate 18 0) ∧ (List.replicate 18 (0 : Byte)).length ≠ r.2.2) ∧
    Collected (given .addressed 0x7E [] board) .addressed 0x7E [] ∧ ∀ r ∈ serviceRows, r.2.1 ≠ 0x7E :=
  ⟨fun r hr => ⟨given_collected _ _ _ _ rfl (by decide), by revert r; decide⟩,
    given_collected _ _ _ _ rfl (by decide), by decide⟩
theorem witness_AcceptedCheckExecutesTheOpcode :
    Collected (given .addressed 0x18 [] board) .addressed 0x18 [] ∧ byteSum ([0x18, 0] ++ [] ++ [0xE8]) = 0 ∧
    Collected (given .addressed 0x21 [4, 9, 1] board) .addressed 0x21 [4, 9, 1] ∧
    byteSum ([0x21, 3] ++ [4, 9, 1] ++ [0xCE]) = 0 ∧ byteSum ([0x7E, 0] ++ [] ++ [0x82]) = 0 :=
  ⟨given_collected _ _ _ _ rfl (by decide), by decide, given_collected _ _ _ _ rfl (by decide), by decide, by decide⟩
/-- SET_BANK of payload lengths 2 and 4, and of the first mode that is neither FOLLOW nor NOW. -/
theorem witness_AcceptedCheckExecutesTheOpcode_set_bank :
    (Collected (given .addressed 0x21 [4, 9] board) .addressed 0x21 [4, 9] ∧
      byteSum ([0x21, 2] ++ [4, 9] ++ [0xD0]) = 0) ∧
    (Collected (given .addressed 0x21 [4, 9, 0, 0] board) .addressed 0x21 [4, 9, 0, 0] ∧
      byteSum ([0x21, 4] ++ [4, 9, 0, 0] ++ [0xCE]) = 0) ∧
    Collected (given .addressed 0x21 [4, 9, 2] board) .addressed 0x21 [4, 9, 2] ∧
    byteSum ([0x21, 3] ++ [4, 9, 2] ++ [0xCD]) = 0 ∧ 2 ≤ (2 : Byte).toNat :=
  ⟨⟨given_collected _ _ _ _ rfl (by decide), by decide⟩, ⟨given_collected _ _ _ _ rfl (by decide), by decide⟩,
    given_collected _ _ _ _ rfl (by decide), by decide, by decide⟩
/-- A command of the board, addressed: every service statement begins with one. -/
theorem addressed (op : Byte) (p : List Byte) (h : p.length ≤ 60) :
    Collected (given .addressed op p board) .addressed op p :=
  given_collected .addressed op p board rfl h
theorem witness_IdentifyAnswersTheSampledStraps :
    Collected (given .addressed 0x01 [] board) .addressed 0x01 [] ∧
    Collected (given .broadcast 0x01 [] board) .broadcast 0x01 [] :=
  ⟨addressed _ _ (by decide), given_collected _ _ _ _ rfl (by decide)⟩
theorem witness_ReadsReturnTheNamedEntry :
    (Collected (given .addressed 0x10 [1, 15] board) .addressed 0x10 [1, 15] ∧ (15 : Byte).toNat = (15 : Fin 16).val) ∧
    (Collected (given .addressed 0x10 [0, 16] board) .addressed 0x10 [0, 16] ∧ 16 ≤ (16 : Byte).toNat) ∧
    (Collected (given .addressed 0x12 [2, 7] board) .addressed 0x12 [2, 7] ∧ (7 : Byte).toNat = (7 : Fin 8).val) ∧
    (Collected (given .addressed 0x12 [1, 8] board) .addressed 0x12 [1, 8] ∧ 8 ≤ (8 : Byte).toNat) ∧
    (Collected (given .addressed 0x14 [0, 3] board) .addressed 0x14 [0, 3] ∧ (3 : Byte).toNat = (3 : Fin 4).val) ∧
    (Collected (given .addressed 0x14 [0, 4] board) .addressed 0x14 [0, 4] ∧ 4 ≤ (4 : Byte).toNat) ∧
    (Collected (given .addressed 0x16 [2] board) .addressed 0x16 [2] ∧ 2 ≤ (2 : Byte).toNat) :=
  ⟨⟨addressed _ _ (by decide), rfl⟩, ⟨addressed _ _ (by decide), by decide⟩, ⟨addressed _ _ (by decide), rfl⟩,
    ⟨addressed _ _ (by decide), by decide⟩, ⟨addressed _ _ (by decide), rfl⟩, ⟨addressed _ _ (by decide), by decide⟩,
    ⟨addressed _ _ (by decide), by decide⟩⟩
theorem witness_WritesReplaceOneStagedEntry :
    (Collected (given .addressed 0x11 (15 :: entry8) board) .addressed 0x11 (15 :: entry8) ∧ entry8.length = 16 ∧
      (∃ w, decodeWindow entry8 = some w) ∧ decodeWindow (entry8.set 12 5) = none) ∧
    (Collected (given .addressed 0x13 [7, 3, 16, 1, 0, 4, 7] board) .addressed 0x13 [7, 3, 16, 1, 0, 4, 7] ∧
      (∃ p, decodeProfile [3, 16, 1, 0, 4, 7] = some p) ∧ decodeProfile [4, 16, 1, 0, 4, 7] = none) ∧
    (Collected (given .addressed 0x15 [3, 1, 0, 0, 0, 15] board) .addressed 0x15 [3, 1, 0, 0, 0, 15] ∧
      (∃ g, decodeTrigger [1, 0, 0, 0, 15] = some g) ∧ decodeTrigger [1, 0, 0, 0, 16] = none) ∧
    (Collected (given .addressed 0x17 [1, 0] board) .addressed 0x17 [1, 0] ∧
      (∃ g, decodeGlobals [1, 0] = some g) ∧ decodeGlobals [2, 0] = none) :=
  ⟨⟨addressed _ _ (by decide), by decide, ⟨_, rfl⟩, by decide⟩, ⟨addressed _ _ (by decide), ⟨_, rfl⟩, by decide⟩,
    ⟨addressed _ _ (by decide), ⟨_, rfl⟩, by decide⟩, ⟨addressed _ _ (by decide), ⟨_, rfl⟩, by decide⟩⟩
theorem witness_CopyOverwritesTheStagedSet : Collected (given .addressed 0x18 [] board) .addressed 0x18 [] :=
  addressed _ _ (by decide)
theorem witness_ApplyTableIsWholeOrNothing :
    (Collected (given .addressed 0x19 [] board) .addressed 0x19 [] ∧ validate board.staged = none) ∧
    (Collected (given .addressed 0x19 [] failing) .addressed 0x19 [] ∧
      validate failing.staged = some (.physicalTop, .window 7)) ∧
    validate (attempt 0x900000 0x0030000 0x13FF00 0x885000) = some (.triggerDuplicate, .trigger 1) :=
  ⟨⟨addressed _ _ (by decide), by decide⟩, ⟨given_collected _ _ _ _ rfl (by decide), by decide⟩, by decide⟩
/-- Each of the eight reasons, and the boundary value beside it that passes. -/
theorem witness_ValidationReportsTheFirstFailure :
    windowFault { boardSet.windows[6] with logicalBase := 0x900800 } = some .logicalAlign ∧
    windowFault { boardSet.windows[6] with physBase := 0x0000800 } = some .physicalAlign ∧
    windowFault { boardSet.windows[7] with physBase := 0x3F80000 } = some .physicalTop ∧
    windowFault { boardSet.windows[7] with physBase := 0x3000000 } = none ∧
    windowFault { boardSet.windows[4] with initialBank := 64 } = some .initialBank ∧
    windowFault { boardSet.windows[4] with initialBank := 63 } = none ∧
    windowFault { boardSet.windows[8] with landing := 0x40000 } = some .landingRange ∧
    windowFault { boardSet.windows[8] with landing := 0x3FFFF } = none ∧
    windowFault boardSet.windows[15] = none := by decide
theorem witness_ValidationReportsTheFirstFailure_triggers :
    triggerFault (boardSet.setTrigger 0 { enabled := true, addr := 0x13FF00, target := 5 }) 0 = some .triggerTarget ∧
    triggerFault (boardSet.setTrigger 0 { enabled := true, addr := 0x800000, target := 4 }) 0 = some .triggerSelf ∧
    triggerFault (boardSet.setTrigger 0 { enabled := true, addr := 0x7FFFFF, target := 4 }) 0 = none ∧
    triggerFault (boardSet.setTrigger 1 { enabled := true, addr := 0x13FF00, target := 7 }) 1 = some .triggerDuplicate ∧
    triggerFault boardSet 1 = none ∧ boardSet.triggers[3].enabled = false := by decide
/-- The live windows of the board that the bank commands' clauses name: none at 16, invalid at 15, PLAIN at 0, BANKED
at 4 with bank state and banks below 64. -/
theorem board_windows :
    16 ≤ (16 : Byte).toNat ∧ board.live.windows[15].valid = false ∧ board.live.windows[0].kind = .plain ∧
    (board.live.windows[4].valid = true ∧ board.live.windows[4].kind = .banked) ∧
    board.banks[4] = some { active := 0, pending := none } ∧ 63 < board.live.windows[4].bankCount ∧
    board.live.windows[4].bankCount ≤ 64 := by decide
theorem witness_ReadBankReportsTheBankState :
    Collected (given .addressed 0x20 [16] board) .addressed 0x20 [16] ∧
    Collected (given .addressed 0x20 [15] board) .addressed 0x20 [15] ∧
    Collected (given .addressed 0x20 [4] board) .addressed 0x20 [4] ∧ (4 : Byte).toNat = (4 : Fin 16).val ∧
    board.live.windows[4].isBanked = true ∧ (board.banks[4]).isSome = true :=
  ⟨addressed _ _ (by decide), addressed _ _ (by decide), addressed _ _ (by decide), rfl, by decide, by decide⟩
theorem witness_SetBankFollowsOrMovesNow :
    Collected (given .addressed 0x21 [4, 63, 0] board) .addressed 0x21 [4, 63, 0] ∧
    Collected (given .addressed 0x21 [4, 64, 1] board) .addressed 0x21 [4, 64, 1] ∧
    Collected (given .addressed 0x21 [4, 63, 2] board) .addressed 0x21 [4, 63, 2] ∧ (2 : Byte) ≠ 1 ∧ (2 : Byte) ≠ 0 ∧
    (4 : Byte).toNat = (4 : Fin 16).val ∧ (63 : Byte).toNat < board.live.windows[4].bankCount ∧
    board.live.windows[4].bankCount ≤ (64 : Byte).toNat :=
  ⟨addressed _ _ (by decide), addressed _ _ (by decide), addressed _ _ (by decide), by decide⟩
theorem witness_CancelPendingClearsThePendingBank :
    Collected (given .addressed 0x22 [16] board) .addressed 0x22 [16] ∧
    Collected (given .addressed 0x22 [0] board) .addressed 0x22 [0] ∧
    Collected (given .addressed 0x22 [4] board) .addressed 0x22 [4] ∧ (4 : Byte).toNat = (4 : Fin 16).val :=
  ⟨addressed _ _ (by decide), addressed _ _ (by decide), addressed _ _ (by decide), rfl⟩
theorem witness_ReadFaultsReportsTheOldestRecords :
    Collected (given .addressed 0x30 [] (logged 4)) .addressed 0x30 [] ∧ timeoutRecord ∈ (logged 4).fl.records :=
  ⟨given_collected _ _ _ _ rfl (by decide), by decide⟩
theorem witness_RemoveFaultsTakesFromTheHead :
    (Collected (given .addressed 0x31 [0] board) .addressed 0x31 [0] ∧
      Collected (given .addressed 0x31 [9] board) .addressed 0x31 [9] ∧ 8 < (9 : Byte).toNat) ∧
    (Collected (given .addressed 0x31 [1] board) .addressed 0x31 [1] ∧
      Collected (given .addressed 0x31 [8] board) .addressed 0x31 [8] ∧ 1 ≤ (1 : Byte).toNat ∧ (8 : Byte).toNat ≤ 8) :=
  ⟨⟨addressed _ _ (by decide), addressed _ _ (by decide), by decide⟩, addressed _ _ (by decide),
    addressed _ _ (by decide), by decide⟩
theorem witness_SetAlertTakesTheValue :
    Collected (given .addressed 0x32 [0] board) .addressed 0x32 [0] ∧
    Collected (given .addressed 0x32 [1] board) .addressed 0x32 [1] ∧
    Collected (given .addressed 0x32 [2] board) .addressed 0x32 [2] ∧ 2 ≤ (2 : Byte).toNat :=
  ⟨addressed _ _ (by decide), addressed _ _ (by decide), addressed _ _ (by decide), by decide⟩
theorem witness_RaisedFaultIsRecordedOrLost :
    (logged 7).fl.records.length < 8 ∧ LogSound (logged 8).fl ∧ (logged 8).fl.records.length = 8 :=
  ⟨by decide, ⟨by decide, by decide, by decide⟩, by decide⟩
theorem witness_ClearingReportsOfQueueAndLink :
    (Collected (given .addressed 0x40 [1] fullQueue) .addressed 0x40 [1] ∧
      fullQueue.wq.entries = head fullQueue :: fullQueue.wq.entries.tail ∧ (head fullQueue).seq = 0) ∧
    (Collected (given .addressed 0x40 [0] board) .addressed 0x40 [0] ∧ board.wq.entries = []) ∧
    (Collected (given .addressed 0x50 [1] board) .addressed 0x50 [1] ∧
      Collected (given .addressed 0x50 [2] board) .addressed 0x50 [2] ∧ 2 ≤ (2 : Byte).toNat) :=
  ⟨⟨given_collected _ _ _ _ (by decide) (by decide), by decide⟩, ⟨addressed _ _ (by decide), rfl⟩,
    addressed _ _ (by decide), addressed _ _ (by decide), by decide⟩
theorem witness_DrainMarksTheEntriesPresent :
    Collected (given .addressed 0x41 [] fullQueue) .addressed 0x41 [] ∧
    (∃ e rest, fullQueue.wq.entries = e :: rest) ∧ (∃ z, fullQueue.wq.entries.getLast? = some z) ∧
    board.wq.entries = [] :=
  ⟨given_collected _ _ _ _ (by decide) (by decide), ⟨_, _, rfl⟩, ⟨_, rfl⟩, rfl⟩
theorem witness_TableEntriesRoundTrip :
    boardSet.windows[8].inRange ∧ (banked 0 24 7 0x3FFFFFF 7 true true true 256 255 .onExit 0).inRange ∧
    (boardProfile 16 .ready 1024 7).inRange = true :=
  ⟨by unfold WindowEntry.inRange; decide, by unfold WindowEntry.inRange; decide, by decide⟩

/-- A PLAIN entry with these bytes in its absent fields, and the entry of 10.8.1 with another policy. -/
def offeredPlain (absent : List Byte) : List Byte := [0x51, 0x12, 0x23, 0, 0, 0xA0, 0, 0, 0, 0] ++ absent
def offeredBanked (policy : Byte) : List Byte := entry8.set 12 policy
/-- R42: a PLAIN entry offered with policy 3 and a bank count, and a BANKED ON_EXIT entry offered with a landing
offset, are accepted and stored with zeros there; the AT_LANDING entry keeps its offset. -/
theorem witness_TableEntriesRoundTrip_absent :
    (decodeWindow (offeredPlain [0x0F, 2, 3, 0x40, 0, 0])).isSome = true ∧
    decodeWindow (offeredPlain [0x0F, 2, 3, 0x40, 0, 0]) = decodeWindow (offeredPlain [0, 0, 0, 0, 0, 0]) ∧
    (decodeWindow (offeredBanked 1)).map (fun w => (w.landing, w.bankCount)) = some (0, 16) ∧
    (decodeWindow (offeredBanked 2)).map (fun w => (w.landing, w.bankCount)) = some (0x40, 16) ∧
    (((offeredPlain []).getD 0 0).getLsbD 1 = false ∧ (offeredPlain []).length = 10) ∧
    ((offeredBanked 1).getD 0 0).getLsbD 1 = true ∧ ((offeredBanked 1).take 13).getD 12 0 ≠ 2 := by decide

/-! The invariants hold of a state in the middle of a posted write, where a step is taken. -/

/-- The posted write of 5.7.3 in its STROBE, with READY_WAIT commanded next. -/
def busy : State := postedStrobe.setPending [.readyWait]

theorem busy_steps : ∃ t, step busy = .next t :=
  ⟨_, rfl⟩
theorem witness_TableSetsStayValid : TablesInRange busy ∧ LiveValid busy :=
  ⟨by unfold TablesInRange TableSet.inRange WindowEntry.inRange; decide, by unfold LiveValid; decide⟩
theorem witness_BankStatesStaySound : BanksSound busy := by
  have h : BanksSound board := board_banks
  have hb : busy.banks = board.banks ∧ busy.live = board.live := by decide
  intro i
  rw [hb.1, hb.2]
  exact h i
theorem witness_LogAndAlertStaySound : LogSound busy.fl :=
  ⟨by decide, by decide, by decide⟩
theorem witness_QueueStaysSound : QueueSound busy.wq :=
  ⟨by decide, by decide, rfl, rfl, rfl⟩
theorem witness_LinkAndMarkerStaySound : DrainSound busy.wq ∧ LinkSound busy.sl busy.wq.marker :=
  ⟨fun m hm => (by cases hm), ⟨rfl, rfl, rfl, rfl, rfl, rfl⟩⟩
theorem witness_LinkAndMarkerStaySound_draining :
    QueueSound (draining .addressed).wq ∧ LinkSound (draining .addressed).sl (draining .addressed).wq.marker :=
  ⟨⟨by decide, by decide, rfl, rfl, rfl⟩, ⟨rfl, rfl, rfl, rfl, rfl, rfl⟩⟩
theorem witness_HeldResetStaysQuiet : HeldSound heldReset ∧ heldReset.resetHeld = true :=
  ⟨fun _ => ⟨rfl, rfl, rfl, rfl, rfl, rfl, rfl, rfl⟩, rfl⟩
theorem busy_entry : ∃ e, busy.wq.entries = [e] ∧ e.sound ∧ e.service = .inService ∧ e.seq = 0 ∧ busy.mp.isOn e.txn := by
  refine ⟨_, rfl, ⟨⟨by decide, by decide, by decide, by decide⟩, by decide⟩, rfl, rfl, ?_⟩
  exact ⟨rfl, rfl⟩
theorem witness_PortsStaySound : PortsSound busy ∧ BeatSound busy := by
  obtain ⟨e, h1, h2, h3, h4, h5⟩ := busy_entry
  refine ⟨⟨?_, trivial, ⟨trivial, Or.inl ⟨e, [], h1, h3, h4, h5, fun f hf => by cases hf⟩⟩⟩, ?_, ?_⟩
  · rw [h1]
    intro f hf
    rw [List.mem_singleton] at hf
    exact hf ▸ h2
  · exact ⟨by decide, by decide, rfl, rfl⟩
  · intro t b hb
    cases hb
    rfl
theorem witness_SoundStateIsNeverStuck : Sound busy :=
  ⟨witness_TableSetsStayValid.1, witness_TableSetsStayValid.2, witness_BankStatesStaySound, witness_LogAndAlertStaySound,
    witness_QueueStaysSound, witness_LinkAndMarkerStaySound.1, witness_LinkAndMarkerStaySound.2,
    witness_PortsStaySound.1, witness_PortsStaySound.2, fun h => by cases h⟩
theorem reading_port : ∃ a t c, reading.pp = .active a t c ∧ t.sound ∧ t.isOf a ∧ NothingBefore t [] ∧
    c.length = (if t.kind = .write then 0 else t.len.bytes) ∧ reading.mp.isOn t := by
  refine ⟨_, _, _, rfl, ⟨by decide, by decide, by decide, by decide⟩, ⟨rfl, rfl, rfl, rfl, rfl⟩,
    ⟨by decide, by decide, by decide⟩, by decide, ?_⟩
  exact ⟨rfl, rfl⟩
theorem witness_NoReadBeatOverAQueuedByte :
    PortsSound reading ∧ reading.mp.phase ≠ .idle ∧ reading.mp.current = some .port ∧
    ∃ t b, currentBeat reading = some (t, b) := by
  obtain ⟨a, t, c, h1, h2, h3, h4, h5, h6⟩ := reading_port
  have hq : reading.wq.entries = [] := by decide
  refine ⟨⟨?_, ?_, ?_⟩, by decide, by decide, _, _, rfl⟩
  · rw [hq]
    intro e he
    cases he
  · rw [h1, hq]
    exact ⟨h2, h3, h4, h5⟩
  · refine ⟨?_, Or.inl ⟨a, t, c, h1, h6⟩⟩
    rw [hq]
    intro e he
    cases he

end Sys2Proof.Tests
end

section
/-! PROOFS. What an arrival at the processor port does, case by case of its decoding (R5). -/
namespace Sys2Proof.Machine

@[simp] theorem arrived_resetHeld (s : State) (a : Access) : (arrived s a).resetHeld = s.resetHeld := rfl
@[simp] theorem arrived_live (s : State) (a : Access) : (arrived s a).live = s.live := rfl
@[simp] theorem arrived_staged (s : State) (a : Access) : (arrived s a).staged = s.staged := rfl
@[simp] theorem arrived_pp (s : State) (a : Access) : (arrived s a).pp = s.pp := rfl
@[simp] theorem arrived_wq (s : State) (a : Access) : (arrived s a).wq = s.wq := rfl
@[simp] theorem arrived_mp (s : State) (a : Access) : (arrived s a).mp = s.mp := rfl

/-- R3: a port that may take the arrival takes it. -/
theorem exec_accessArrival_of_mayArrive {s : State} {a : Access} (h : MayArrive s a) :
    exec (.accessArrival a) s = takeArrival a s := by
  obtain ⟨hheld, hpp, hwf⟩ := h
  change execAccessArrival a s = _
  simp [execAccessArrival, hheld, hpp, hwf]

theorem takeArrival_straddle {s : State} {a : Access} {w : Option (Fin 16)}
    (hd : decodeAccess s.live a = .straddle w) :
    takeArrival a s = .next (refuseAccess (.straddle w) a (arrived s a)) := by
  simp only [takeArrival, arrived, hd]
  rfl

theorem takeArrival_rights {s : State} {a : Access} {w : Fin 16} (hd : decodeAccess s.live a = .rights w) :
    takeArrival a s = .next (refuseAccess (.rights w) a (arrived s a)) := by
  simp only [takeArrival, arrived, hd]
  rfl

theorem takeArrival_miss {s : State} {a : Access} (hd : decodeAccess s.live a = .miss) :
    takeArrival a s = .next (missAccess a (arrived s a)) := by
  simp only [takeArrival, arrived, hd]
  rfl

theorem takeArrival_accepted {s : State} {a : Access} {w : Fin 16} (hd : decodeAccess s.live a = .accepted w) :
    takeArrival a s = acceptAccess w a (arrived s a) := by
  simp only [takeArrival, arrived, hd]
  rfl

/-- R83: an access accepted at physical start p is routed with its record, after its captures. -/
theorem takeArrival_routed {s : State} {a : Access} {w : Fin 16} {p : PAddr}
    (hd : decodeAccess s.live a = .accepted w)
    (hp : physicalStart s.live (arrived s a).banks w a.start = some p) :
    takeArrival a s = .next (routeAccess a (recordOf s w a p) (captureWrite a (arrived s a))) := by
  rw [takeArrival_accepted hd, acceptAccess, arrived_live, hp]
  rfl

/-- Everything an arrival that answers a next state can do: a refusal, a miss, or a routed access. -/
theorem takeArrival_cases {s t : State} {a : Access} (h : takeArrival a s = .next t) :
    (∃ cause, t = refuseAccess cause a (arrived s a)) ∨ t = missAccess a (arrived s a) ∨
      ∃ w p, t = routeAccess a (recordOf s w a p) (captureWrite a (arrived s a)) := by
  cases hd : decodeAccess s.live a with
  | straddle w =>
    rw [takeArrival_straddle hd] at h
    cases h
    exact .inl ⟨_, rfl⟩
  | rights w =>
    rw [takeArrival_rights hd] at h
    cases h
    exact .inl ⟨_, rfl⟩
  | miss =>
    rw [takeArrival_miss hd] at h
    cases h
    exact .inr (.inl rfl)
  | accepted w =>
    cases hp : physicalStart s.live (arrived s a).banks w a.start with
    | none =>
      rw [takeArrival_accepted hd, acceptAccess, arrived_live, hp] at h
      cases h
    | some p =>
      rw [takeArrival_routed hd hp] at h
      cases h
      exact .inr (.inr ⟨w, p, rfl⟩)

theorem takeArrival_resetHeld {s t : State} {a : Access} (h : takeArrival a s = .next t) :
    t.resetHeld = s.resetHeld := by
  obtain ⟨cause, rfl⟩ | rfl | ⟨w, p, rfl⟩ := takeArrival_cases h
  all_goals simp

end Sys2Proof.Machine
end

section
/-! PROOFS. RESET: what it leaves in every block, and that a held RESET lets nothing begin (R16). -/
namespace Sys2Proof.Machine

theorem HeldSound.of_notHeld {s : State} (h : s.resetHeld = false) : HeldSound s := by
  intro hr
  rw [h] at hr
  cases hr

/-- R120: a memory port that is not IDLE shows that RESET is not held. -/
theorem HeldSound.notHeld_of_busy {s : State} (h : HeldSound s) (hp : s.mp.phase ≠ .idle) : s.resetHeld = false := by
  refine Bool.eq_false_iff.mpr fun hr => ?_
  obtain ⟨-, -, hmp, -⟩ := h hr
  exact hp (by rw [hmp]; rfl)

theorem HeldSound.notHeld_of_strobe {s : State} (h : HeldSound s) (hp : s.mp.strobeRunning = true) :
    s.resetHeld = false := by
  refine h.notHeld_of_busy fun hi => ?_
  rw [MemPort.strobeRunning, hi] at hp
  cases hp

/-- R175: a response under way shows that RESET is not held. -/
theorem HeldSound.notHeld_of_transmitting {s : State} (h : HeldSound s) (ht : s.sl.transmitter ≠ .off) :
    s.resetHeld = false := by
  refine Bool.eq_false_iff.mpr fun hr => ?_
  obtain ⟨-, -, -, -, -, -, hoff, -⟩ := h hr
  exact ht hoff

/-- R175: a running gap timer shows that RESET is not held. -/
theorem HeldSound.notHeld_of_gapTimer {s : State} (h : HeldSound s) (hg : s.sl.gapTimer.isSome = true) :
    s.resetHeld = false := by
  refine Bool.eq_false_iff.mpr fun hr => ?_
  obtain ⟨-, -, -, -, -, -, -, hnone⟩ := h hr
  rw [hnone] at hg
  cases hg

theorem HeldSound.held (s : State) : HeldSound (holdReset s) :=
  fun _ => ⟨rfl, rfl, rfl, rfl, rfl, rfl, rfl, rfl⟩

/-- R16: the only events under a held RESET are those of the model's queue and counter, of the line, and RESET. -/
theorem heldSound_kept : KeptByEvents HeldSound where
  pending _ _ h := h
  period _ h := h
  line _ _ _ _ _ h := h
  hold s _ := HeldSound.held s
  release _ _ _ _ _ := .of_notHeld rfl
  clock _ _ hr := .of_notHeld hr
  arrival _ _ _ _ hr _ _ ht := .of_notHeld ((takeArrival_resetHeld ht).trans hr)
  setupDone _ _ _ h hp _ := .of_notHeld (h.notHeld_of_busy (by simp [hp]))
  wait _ h hp _ := .of_notHeld (h.notHeld_of_busy (by simp [hp]))
  countSetup _ h hp _ := .of_notHeld (h.notHeld_of_busy (by simp [hp]))
  countRecovery _ h hp _ := .of_notHeld (h.notHeld_of_busy (by simp [hp]))
  countStrobe _ h hp _ := .of_notHeld (h.notHeld_of_busy (by simp [hp]))
  countWait _ h hp _ := .of_notHeld (h.notHeld_of_busy (by simp [hp]))
  beatDone _ _ _ _ _ h hp _ := .of_notHeld (by simpa using h.notHeld_of_strobe hp)
  beatFailed _ _ _ h hp _ := .of_notHeld (by simpa using h.notHeld_of_strobe hp)
  recovery _ h hp := .of_notHeld (by simpa using h.notHeld_of_busy (by simp [hp]))
  address _ _ _ hr := .of_notHeld (by simpa using hr)
  linkBreak _ _ hr := .of_notHeld (by simpa using hr)
  framingError _ _ hr := .of_notHeld (by simpa using hr)
  gapTimeout _ h hg := .of_notHeld (by simpa using h.notHeld_of_gapTimer hg)
  turnaroundEnd _ h ht := .of_notHeld (by simpa using h.notHeld_of_transmitting (by simp [ht]))
  nextBit _ _ _ _ h ht _ := .of_notHeld (h.notHeld_of_transmitting (by simp [ht]))
  responseFrameEnd _ _ _ _ h ht := .of_notHeld (by simpa using h.notHeld_of_transmitting (by simp [ht]))
  ignored _ _ hr _ := .of_notHeld (by simpa using hr)
  opcode _ _ _ _ hr _ _ := .of_notHeld (by simpa using hr)
  lengthFrame _ _ _ _ _ hr _ _ _ _ := .of_notHeld (by simpa using hr)
  payloadFrame _ _ _ _ _ _ hr _ _ _ _ := .of_notHeld (by simpa using hr)
  badLength _ _ _ _ hr _ _ := .of_notHeld (by simpa using hr)
  badCheck _ _ _ _ hr _ _ := .of_notHeld (by simpa using hr)
  service _ _ _ _ _ hr _ _ _ _ := .of_notHeld (by simpa using hr)

/-- Settles O58: every event of the part keeps it, by the one case split over a step. -/
theorem heldResetStaysQuiet : Obligations.HeldResetStaysQuiet :=
  fun _ _ hs ht => heldSound_kept.step hs ht

end Sys2Proof.Machine

end

section
/-! PROOFS. Profiles and queue bounds at every event: what a later arrival relies on (R35, R122). -/
namespace Sys2Proof.Machine

/-- Two facts that every event keeps are kept together. -/
theorem KeptByEvents.and {P Q : State → Prop} (hP : KeptByEvents P) (hQ : KeptByEvents Q) :
    KeptByEvents fun s => P s ∧ Q s where
  pending s q h := ⟨hP.pending s q h.1, hQ.pending s q h.2⟩
  period s h := ⟨hP.period s h.1, hQ.period s h.2⟩
  clock s h hr := ⟨hP.clock s h.1 hr, hQ.clock s h.2 hr⟩
  line s l i r x h := ⟨hP.line s l i r x h.1, hQ.line s l i r x h.2⟩
  arrival s a t h hr hp hw ht := ⟨hP.arrival s a t h.1 hr hp hw ht, hQ.arrival s a t h.2 hr hp hw ht⟩
  hold s h := ⟨hP.hold s h.1, hQ.hold s h.2⟩
  release s p l h hr := ⟨hP.release s p l h.1 hr, hQ.release s p l h.2 hr⟩
  setupDone s t b h hp hb := ⟨hP.setupDone s t b h.1 hp hb, hQ.setupDone s t b h.2 hp hb⟩
  wait s h hp hw := ⟨hP.wait s h.1 hp hw, hQ.wait s h.2 hp hw⟩
  countSetup s h hp hc := ⟨hP.countSetup s h.1 hp hc, hQ.countSetup s h.2 hp hc⟩
  countRecovery s h hp hc := ⟨hP.countRecovery s h.1 hp hc, hQ.countRecovery s h.2 hp hc⟩
  countStrobe s h hp hc := ⟨hP.countStrobe s h.1 hp hc, hQ.countStrobe s h.2 hp hc⟩
  countWait s h hp hc := ⟨hP.countWait s h.1 hp hc, hQ.countWait s h.2 hp hc⟩
  beatDone s t b x y h hp hb := ⟨hP.beatDone s t b x y h.1 hp hb, hQ.beatDone s t b x y h.2 hp hb⟩
  beatFailed s t b h hp hb := ⟨hP.beatFailed s t b h.1 hp hb, hQ.beatFailed s t b h.2 hp hb⟩
  recovery s h hp := ⟨hP.recovery s h.1 hp, hQ.recovery s h.2 hp⟩
  address s v h hr := ⟨hP.address s v h.1 hr, hQ.address s v h.2 hr⟩
  linkBreak s h hr := ⟨hP.linkBreak s h.1 hr, hQ.linkBreak s h.2 hr⟩
  framingError s h hr := ⟨hP.framingError s h.1 hr, hQ.framingError s h.2 hr⟩
  gapTimeout s h hg := ⟨hP.gapTimeout s h.1 hg, hQ.gapTimeout s h.2 hg⟩
  turnaroundEnd s h ht := ⟨hP.turnaroundEnd s h.1 ht, hQ.turnaroundEnd s h.2 ht⟩
  nextBit s k b p h ht hb := ⟨hP.nextBit s k b p h.1 ht hb, hQ.nextBit s k b p h.2 ht hb⟩
  responseFrameEnd s k b p h ht := ⟨hP.responseFrameEnd s k b p h.1 ht, hQ.responseFrameEnd s k b p h.2 ht⟩
  ignored s h hr he := ⟨hP.ignored s h.1 hr he, hQ.ignored s h.2 hr he⟩
  opcode s l b h hr h1 h2 := ⟨hP.opcode s l b h.1 hr h1 h2, hQ.opcode s l b h.2 hr h1 h2⟩
  lengthFrame s l c n h hr h1 h2 h3 h4 :=
    ⟨hP.lengthFrame s l c n h.1 hr h1 h2 h3 h4, hQ.lengthFrame s l c n h.2 hr h1 h2 h3 h4⟩
  payloadFrame s l c n b h hr h1 h2 h3 h4 :=
    ⟨hP.payloadFrame s l c n b h.1 hr h1 h2 h3 h4, hQ.payloadFrame s l c n b h.2 hr h1 h2 h3 h4⟩
  badLength s l c h hr h1 h2 := ⟨hP.badLength s l c h.1 hr h1 h2, hQ.badLength s l c h.2 hr h1 h2⟩
  badCheck s l c h hr h1 h2 := ⟨hP.badCheck s l c h.1 hr h1 h2, hQ.badCheck s l c h.2 hr h1 h2⟩
  service s l c k h hr h1 h2 h3 h4 :=
    ⟨hP.service s l c k h.1 hr h1 h2 h3 h4, hQ.service s l c k h.2 hr h1 h2 h3 h4⟩

/-! ### Profiles -/

/-- R35: the profiles of both sets are in range. -/
def ProfilesInRange (s : State) : Prop :=
  (∀ i : Fin 8, s.live.profiles[i].inRange = true) ∧ ∀ i : Fin 8, s.staged.profiles[i].inRange = true

theorem TablesInRange.profiles {s : State} (h : TablesInRange s) : ProfilesInRange s :=
  ⟨h.1.2, h.2.2⟩

theorem ProfilesInRange.of_tables {s t : State} (h : ProfilesInRange s) (hlive : t.live = s.live)
    (hstaged : t.staged = s.staged) : ProfilesInRange t := by
  unfold ProfilesInRange
  rw [hlive, hstaged]
  exact h

theorem bootSet_profiles (w : Width) (i : Fin 8) : (bootSet w).profiles[i] = bootProfile := by
  simp [bootSet]

theorem ProfilesInRange.released (st : Straps) (high : Bool) : ProfilesInRange (State.released st high) := by
  have hboot : ∀ i : Fin 8, (bootSet st.bootWidth).profiles[i].inRange = true := by
    intro i
    rw [bootSet_profiles]
    decide
  exact ⟨hboot, hboot⟩

/-- What an execution can do to the profiles: the live ones stay or are the staged ones, the staged ones stay, are
the live ones, or take one profile in range (R43, R44, R51). -/
def ProfileChange (run : List Byte → State → ServiceResult) : Prop :=
  ∀ p s, ((run p s).state.live.profiles = s.live.profiles ∨ (run p s).state.live.profiles = s.staged.profiles) ∧
    ((run p s).state.staged.profiles = s.staged.profiles ∨ (run p s).state.staged.profiles = s.live.profiles ∨
      ∃ (i : Fin 8) (f : Profile), f.inRange = true ∧
        (run p s).state.staged.profiles = s.staged.profiles.set i f)

theorem decodeProfile_inRange {bytes : List Byte} {f : Profile} (h : decodeProfile bytes = some f) :
    f.inRange = true := by
  unfold decodeProfile at h
  split at h
  · split at h
    · cases h
    · obtain ⟨hr, hf⟩ := Option.ite_none_right_eq_some.mp h
      exact Option.some.inj hf ▸ hr
  · cases h

theorem serviceWriteProfile_profiles : ProfileChange serviceWriteProfile := by
  intro p s
  unfold serviceWriteProfile refuseCommand
  repeat' split
  case h_2 i _ _ f hf => exact ⟨.inl rfl, .inr (.inr ⟨i, f, decodeProfile_inRange hf, rfl⟩)⟩
  all_goals exact ⟨.inl rfl, .inl rfl⟩

theorem serviceCopy_profiles : ProfileChange serviceCopy := by
  intro p s
  unfold serviceCopy refuseCommand
  split
  · exact ⟨.inl rfl, .inr (.inl rfl)⟩
  · exact ⟨.inl rfl, .inl rfl⟩

theorem serviceApply_profiles : ProfileChange serviceApply := by
  intro p s
  unfold serviceApply refuseCommand
  split
  · split
    · exact ⟨.inr rfl, .inl rfl⟩
    · exact ⟨.inl rfl, .inl rfl⟩
  · exact ⟨.inl rfl, .inl rfl⟩

theorem serviceOf_profiles (op : Byte) : ProfileChange (serviceOf op) := by
  refine serviceOf_keeps (fun p s => ⟨.inl rfl, .inl rfl⟩) ?_ op
  simp only [serviceTable, List.forall_mem_cons, List.not_mem_nil, false_implies, implies_true, and_true,
    serviceWriteProfile_profiles, serviceCopy_profiles, serviceApply_profiles, true_and]
  and_intros
  all_goals
    intro p s
    simp only [serviceIdentify, serviceReadWindow, serviceWriteWindow, serviceReadProfile, serviceReadTrigger,
      serviceWriteTrigger, serviceReadGlobals, serviceWriteGlobals, serviceReadBank, serviceSetBank, serviceCancel,
      serviceReadFaults, serviceRemoveFaults, serviceSetAlert, serviceReadQueue, serviceDrain, serviceLinkStatus,
      setBank, refuseCommand]
    repeat' split
  all_goals exact ⟨.inl rfl, .inl rfl⟩

theorem ProfilesInRange.service {s : State} (h : ProfilesInRange s) (op : Byte) (p : List Byte) :
    ProfilesInRange (serviceOf op p s).state := by
  obtain ⟨hlive, hstaged⟩ := h
  obtain ⟨hl, hs⟩ := serviceOf_profiles op p s
  constructor
  · rcases hl with hl | hl
    all_goals rw [hl]
    · exact hlive
    · exact hstaged
  · rcases hs with hs | hs | ⟨i, f, hf, hs⟩
    all_goals rw [hs]
    · exact hstaged
    · exact hlive
    · intro j
      simp only [Fin.getElem_fin, Vector.getElem_set]
      split
      · exact hf
      · exact hstaged j

theorem profilesInRange_kept : KeptByEvents ProfilesInRange where
  pending _ _ h := h
  period _ h := h
  clock _ h _ := h
  line _ _ _ _ _ h := h
  arrival s a t h _ _ _ ht := by
    obtain ⟨cause, rfl⟩ | rfl | ⟨w, p, rfl⟩ := takeArrival_cases ht
    all_goals exact h.of_tables (by simp) (by simp)
  hold s _ := .released s.straps s.sl.linkIn
  release s p l _ _ := .released (sampleStraps p) l
  setupDone _ _ _ h _ _ := h
  wait _ h _ _ := h
  countSetup _ h _ _ := h
  countRecovery _ h _ _ := h
  countStrobe _ h _ _ := h
  countWait _ h _ _ := h
  beatDone _ _ _ _ _ h _ _ := h.of_tables (by simp) (by simp)
  beatFailed _ _ _ h _ _ := h.of_tables (by simp) (by simp)
  recovery _ h _ := h.of_tables (by simp) (by simp)
  address _ _ h _ := h.of_tables (by simp) (by simp)
  linkBreak _ h _ := h.of_tables (by simp) (by simp)
  framingError _ h _ := h
  gapTimeout _ h _ := h
  turnaroundEnd _ h _ := h
  nextBit _ _ _ _ h _ _ := h
  responseFrameEnd _ _ _ _ h _ := h.of_tables (by simp) (by simp)
  ignored _ h _ _ := h
  opcode _ _ _ h _ _ _ := h
  lengthFrame _ _ _ _ h _ _ _ _ _ := h
  payloadFrame _ _ _ _ _ h _ _ _ _ _ := h
  badLength _ _ _ h _ _ _ := h.of_tables (by simp) (by simp)
  badCheck _ _ _ h _ _ _ := h.of_tables (by simp) (by simp)
  service _ _ c _ h _ _ _ _ _ :=
    carryOut_keeps (P := ProfilesInRange) h (fun p _ hu => hu.service c.opcode p) fun _ _ _ hu => hu

/-! ### The queue -/

/-- What an execution can do to the queue: set a drain marker, or set the mark to the depth (R136, R137). -/
def QueueChange (run : List Byte → State → ServiceResult) : Prop :=
  ∀ p s, (run p s).state.wq = s.wq ∨ (∃ m, (run p s).state.wq = { s.wq with marker := m }) ∨
    (run p s).state.wq = { s.wq with highWater := s.wq.entries.length }

theorem serviceReadQueue_queue : QueueChange serviceReadQueue := by
  intro p s
  unfold serviceReadQueue refuseCommand
  repeat' split
  case h_3 => exact .inr (.inr rfl)
  all_goals exact .inl rfl

theorem serviceDrain_queue : QueueChange serviceDrain := by
  intro p s
  unfold serviceDrain refuseCommand
  split
  · split
    · exact .inl rfl
    · exact .inr (.inl ⟨_, rfl⟩)
  · exact .inl rfl

theorem serviceOf_queue (op : Byte) : QueueChange (serviceOf op) := by
  refine serviceOf_keeps (fun p s => .inl rfl) ?_ op
  simp only [serviceTable, List.forall_mem_cons, List.not_mem_nil, false_implies, implies_true, and_true,
    serviceReadQueue_queue, serviceDrain_queue, true_and]
  and_intros
  all_goals
    intro p s
    simp only [serviceIdentify, serviceReadWindow, serviceWriteWindow, serviceReadProfile, serviceWriteProfile,
      serviceReadTrigger, serviceWriteTrigger, serviceReadGlobals, serviceWriteGlobals, serviceCopy, serviceApply,
      serviceReadBank, serviceSetBank, serviceCancel, serviceReadFaults, serviceRemoveFaults, serviceSetAlert,
      serviceLinkStatus, setBank, refuseCommand]
    repeat' split
  all_goals exact .inl rfl

theorem QueueSound.service {s : State} (h : QueueSound s.wq) (op : Byte) (p : List Byte) :
    QueueSound (serviceOf op p s).state.wq := by
  rcases serviceOf_queue op p s with hq | ⟨m, hq⟩ | hq
  all_goals rw [hq]
  · exact h
  · exact h.marked m
  · exact h.cleared

theorem abandonDrain_queue (s : State) : ∃ m, (abandonDrain s).wq = { s.wq with marker := m } := by
  unfold abandonDrain
  split
  all_goals exact ⟨_, rfl⟩

theorem takeAddress_queue (v : Byte) (s : State) : ∃ m, (takeAddress v s).wq = { s.wq with marker := m } := by
  unfold takeAddress
  split
  · exact ⟨_, rfl⟩
  · exact abandonDrain_queue s
  · exact abandonDrain_queue s

theorem takeBreak_queue (s : State) : ∃ m, (takeBreak s).wq = { s.wq with marker := m } :=
  abandonDrain_queue s

theorem QueueSound.of_marked {s t : State} (h : QueueSound s.wq) (ht : ∃ m, t.wq = { s.wq with marker := m }) :
    QueueSound t.wq := by
  obtain ⟨m, hm⟩ := ht
  rw [hm]
  exact h.marked m

theorem QueueSound.reset : QueueSound resetQueue :=
  ⟨Nat.le_refl _, by decide, rfl⟩

/-- R122 to R124: the outcome of an accepted access keeps the queue sound. -/
theorem QueueSound.routed {s : State} (h : QueueSound s.wq) (a : Access) (t : Txn) :
    QueueSound (routeAccess a t s).wq := by
  unfold routeAccess
  split
  · split
    · rename_i hroom
      exact QueueSound.arbitrated (by simpa [admitWrite] using h.enqueue t hroom)
    · exact h
  · exact QueueSound.arbitrated h

theorem queueSound_kept : KeptByEvents fun s => QueueSound s.wq where
  pending _ _ h := h
  period _ h := h
  clock _ h _ := h
  line _ _ _ _ _ h := h
  arrival s a t h _ _ _ ht := by
    obtain ⟨cause, rfl⟩ | rfl | ⟨w, p, rfl⟩ := takeArrival_cases ht
    · simpa using h
    · simpa using h
    · exact QueueSound.routed (by simpa using h) a _
  hold _ _ := .reset
  release _ _ _ _ _ := .reset
  setupDone _ _ _ h _ _ := h
  wait _ h _ _ := h
  countSetup _ h _ _ := h
  countRecovery _ h _ _ := h
  countStrobe _ h _ _ := h
  countWait _ h _ _ := h
  beatDone _ _ b x y h _ _ := (QueueSound.ownerDone (by exact h) b x y).reported
  beatFailed _ t b h _ _ := (QueueSound.ownerTimedOut (by exact h) t b).reported
  recovery _ h _ := h.recovered
  address s v h _ := h.of_marked (takeAddress_queue v s)
  linkBreak s h _ := h.of_marked (takeBreak_queue s)
  framingError _ h _ := h
  gapTimeout _ h _ := h
  turnaroundEnd _ h _ := h
  nextBit _ _ _ _ h _ _ := h
  responseFrameEnd _ _ _ _ h _ := by simpa using h
  ignored _ h _ _ := h
  opcode _ _ _ h _ _ _ := h
  lengthFrame _ _ _ _ h _ _ _ _ _ := h
  payloadFrame _ _ _ _ _ h _ _ _ _ _ := h
  badLength _ _ _ h _ _ _ := by simpa using h
  badCheck _ _ _ h _ _ _ := by simpa using h
  service _ _ c _ h _ _ _ _ _ :=
    carryOut_keeps (P := fun u => QueueSound u.wq) h (fun p _ hu => hu.service c.opcode p) fun _ _ _ hu => hu

end Sys2Proof.Machine
end

section
/-! PROOFS. Processor port, queue and memory port stay together at every event (R4, R85, R101 to R121). -/
namespace Sys2Proof.Machine

/-- The three blocks together, with the counts and outputs of the phase. -/
def PortsAndBeat (s : State) : Prop :=
  PortsSound s ∧ BeatSound s

/-- Only PP, the queue's entries and MP bear on how the three stand together. -/
theorem PortsAndBeat.of_ports {s t : State} (h : PortsAndBeat s) (hpp : t.pp = s.pp) (hmp : t.mp = s.mp)
    (hwq : t.wq.entries = s.wq.entries) : PortsAndBeat t := by
  unfold PortsAndBeat PortsSound OwnerSound BeatSound currentBeat currentTxn at *
  rw [hpp, hmp, hwq]
  exact h

theorem PortsAndBeat.of_marked {s t : State} (h : PortsAndBeat s) (hpp : t.pp = s.pp) (hmp : t.mp = s.mp)
    (hwq : ∃ m, t.wq = { s.wq with marker := m }) : PortsAndBeat t := by
  obtain ⟨m, hm⟩ := hwq
  exact h.of_ports hpp hmp (by rw [hm])

theorem PortsAndBeat.released (st : Straps) (high : Bool) : PortsAndBeat (State.released st high) := by
  refine ⟨⟨?_, trivial, rfl, rfl, rfl⟩, trivial, rfl⟩
  intro e he
  cases he

/-! ### Phases of a beat -/

/-- R103: while a beat is in SETUP the port keeps the timing of a sound record. -/
theorem PortsSound.timing_of_setup {s : State} (h : PortsSound s) (hp : s.mp.phase = .setup) :
    s.mp.timing.inRange = true := by
  obtain ⟨hentries, hport, howner⟩ := h
  have hon : ∀ t, s.mp.isOn t → s.mp.timing = t.timing := by
    intro t ht
    rw [MemPort.isOn, hp] at ht
    exact ht.2
  have hstay : ¬ s.mp.isLeaving := by simp [MemPort.isLeaving, hp]
  unfold OwnerSound at howner
  split at howner
  · exact absurd howner.1 (by simp [hp])
  · obtain ⟨-, ⟨a, t, c, hpp, ht⟩ | ⟨-, hl⟩⟩ := howner
    · rw [hpp] at hport
      obtain ⟨⟨-, hr, -⟩, -⟩ := hport
      rw [hon t ht]
      exact hr
    · exact absurd hl hstay
  · obtain ⟨-, ⟨e, rest, he, -, -, ht, -⟩ | ⟨-, hl⟩⟩ := howner
    · obtain ⟨⟨-, hr, -⟩, -⟩ := hentries e (by simp [he])
      rw [hon e.txn ht]
      exact hr
    · exact absurd hl hstay

/-- A memory port that moves on within its transaction keeps its owner. -/
theorem PortsSound.moved {s : State} {m : MemPort} (h : PortsSound s) (hbusy : s.mp.phase ≠ .idle)
    (hcur : m.current = s.mp.current) (hon : ∀ t, s.mp.isOn t → m.isOn t) (hl : s.mp.isLeaving → m.isLeaving) :
    PortsSound (s.setMp m) := by
  obtain ⟨hentries, hport, howner⟩ := h
  refine ⟨hentries, hport, ?_⟩
  unfold OwnerSound at howner ⊢
  simp only [State.setMp_mp, State.setMp_pp, State.setMp_wq]
  rw [hcur]
  split at howner
  · exact absurd howner.1 hbusy
  · obtain ⟨hu, ⟨a, t, c, hpp, ht⟩ | ⟨hna, hlv⟩⟩ := howner
    · exact ⟨hu, .inl ⟨a, t, c, hpp, hon t ht⟩⟩
    · exact ⟨hu, .inr ⟨hna, hl hlv⟩⟩
  · obtain ⟨hna, ⟨e, rest, he, hsv, hsq, ht, hu⟩ | ⟨hu, hlv⟩⟩ := howner
    · exact ⟨hna, .inl ⟨e, rest, he, hsv, hsq, hon _ ht, hu⟩⟩
    · exact ⟨hna, .inr ⟨hu, hl hlv⟩⟩

theorem currentBeat_setMp {s : State} {m : MemPort} (hcur : m.current = s.mp.current)
    (hidx : m.beatIndex = s.mp.beatIndex) : currentBeat (s.setMp m) = currentBeat s := by
  unfold currentBeat currentTxn
  simp only [State.setMp_mp, State.setMp_pp, State.setMp_wq]
  rw [hcur, hidx]

/-- A memory port that moves on within its beat keeps its owner, given the counts and outputs it comes to. -/
theorem PortsAndBeat.moved {s : State} {m : MemPort} (h : PortsAndBeat s) (hbusy : s.mp.phase ≠ .idle)
    (hcur : m.current = s.mp.current) (hidx : m.beatIndex = s.mp.beatIndex)
    (hon : ∀ t, s.mp.isOn t → m.isOn t) (hl : s.mp.isLeaving → m.isLeaving) (hcounts : CountsSound m)
    (hpins : PinsSound m (currentBeat s)) : PortsAndBeat (s.setMp m) := by
  refine ⟨h.1.moved hbusy hcur hon hl, hcounts, ?_⟩
  rw [currentBeat_setMp hcur hidx]
  exact hpins

/-- R104: the strobe of the beat's kind goes active with both counts 1. -/
theorem PortsAndBeat.strobeBegun {s : State} {t : Txn} {b : Beat} (h : PortsAndBeat s) (hp : s.mp.phase = .setup)
    (hb : currentBeat s = some (t, b)) : PortsAndBeat (s.setMp (s.mp.enterStrobe t.kind)) := by
  have hrange := h.1.timing_of_setup hp
  obtain ⟨-, hcounts, hpins⟩ := id h
  rw [CountsSound, hp] at hcounts
  rw [PinsSound, hp, hb] at hpins
  obtain ⟨-, -, hout⟩ := hcounts
  refine h.moved (by simp [hp]) rfl rfl ?_ ?_ ⟨Nat.le_refl _, ?_, rfl, hout⟩ ?_
  · intro u hu
    rw [MemPort.isOn, hp] at hu
    exact hu
  · intro hl
    rw [MemPort.isLeaving, hp] at hl
    cases hl
  · obtain ⟨-, hstrobe, -⟩ := of_decide_eq_true hrange
    exact hstrobe
  · rw [hb]
    intro u c huc
    cases huc
    exact congrArg (MemPins.withStrobe · t.kind) (hpins t b rfl)

/-- R106: READY_WAIT begins in strobe period strobe + 1, every output kept. -/
theorem PortsAndBeat.waiting {s : State} (h : PortsAndBeat s) (hp : s.mp.phase = .strobe)
    (hw : s.mp.mayWait = true) : PortsAndBeat (enterReadyWait s) := by
  obtain ⟨-, hcounts, hpins⟩ := id h
  rw [CountsSound, hp] at hcounts
  rw [PinsSound, hp] at hpins
  obtain ⟨-, -, -, hout⟩ := hcounts
  simp only [MemPort.mayWait, decide_eq_true_eq] at hw
  refine h.moved (by simp [hp]) rfl rfl ?_ ?_ ⟨Nat.lt_succ_self _, hw.2, hw.1, hout⟩ hpins
  · intro u hu
    rw [MemPort.isOn, hp] at hu
    exact hu
  · intro hl
    rw [MemPort.isLeaving, hp] at hl
    cases hl

/-- One more period of a phase keeps the port on its transaction. -/
theorem PortsAndBeat.counted {s : State} {m : MemPort} (h : PortsAndBeat s) (hbusy : s.mp.phase ≠ .idle)
    (hm : m = { s.mp with phaseCount := m.phaseCount, strobeCount := m.strobeCount }) (hcounts : CountsSound m) :
    PortsAndBeat (s.setMp m) := by
  refine h.moved hbusy ?_ ?_ ?_ ?_ hcounts ?_
  all_goals rw [hm]
  · exact fun _ hu => hu
  · exact fun hl => hl
  · exact h.2.2

theorem PortsAndBeat.setupCounted {s : State} (h : PortsAndBeat s) (hp : s.mp.phase = .setup)
    (hc : s.mp.phaseCount < s.mp.timing.setup) : PortsAndBeat (s.setMp s.mp.countPhase) := by
  have hcounts := h.2.1
  refine h.counted (by simp [hp]) rfl ?_
  rw [CountsSound, hp] at hcounts
  simp only [CountsSound, MemPort.countPhase, hp]
  exact ⟨by omega, hc, hcounts.2.2⟩

theorem PortsAndBeat.recoveryCounted {s : State} (h : PortsAndBeat s) (hp : s.mp.phase = .recovery)
    (hc : s.mp.phaseCount < s.mp.timing.recovery) : PortsAndBeat (s.setMp s.mp.countPhase) := by
  have hcounts := h.2.1
  refine h.counted (by simp [hp]) rfl ?_
  rw [CountsSound, hp] at hcounts
  simp only [CountsSound, MemPort.countPhase, hp]
  exact ⟨by omega, hc, hcounts.2.2⟩

theorem PortsAndBeat.strobeCounted {s : State} (h : PortsAndBeat s) (hp : s.mp.phase = .strobe)
    (hc : s.mp.strobeCount < s.mp.timing.strobe) : PortsAndBeat (s.setMp s.mp.countStrobe) := by
  have hcounts := h.2.1
  refine h.counted (by simp [hp]) rfl ?_
  rw [CountsSound, hp] at hcounts
  obtain ⟨-, -, hsame, hout⟩ := hcounts
  simp only [CountsSound, MemPort.countStrobe, hp]
  exact ⟨by omega, hc, by omega, hout⟩

theorem PortsAndBeat.waitCounted {s : State} (h : PortsAndBeat s) (hp : s.mp.phase = .readyWait)
    (hc : s.mp.strobeCount < s.mp.timing.limit) : PortsAndBeat (s.setMp s.mp.countWait) := by
  have hcounts := h.2.1
  refine h.counted (by simp [hp]) rfl ?_
  rw [CountsSound, hp] at hcounts
  obtain ⟨hlow, -, hmode, hout⟩ := hcounts
  simp only [CountsSound, MemPort.countWait, hp]
  exact ⟨by omega, hc, hmode, hout⟩

theorem PortsAndBeat.recovered {s : State} (h : PortsAndBeat s) (hp : s.mp.phase = .recovery) :
    PortsAndBeat (recoveryDone s) := by
  have hpins := h.2.2
  rw [PinsSound, hp] at hpins
  exact recoveryDone_sound h.1 hp hpins

/-! ### Arrivals -/

/-- R83: the record of an accepted access is sound when the live profiles are in range. -/
theorem recordOf_sound {s : State} {a : Access} (hprof : ∀ i : Fin 8, s.live.profiles[i].inRange = true)
    (ha : a.wellFormed = true) (w : Fin 16) (p : PAddr) :
    (recordOf s w a p).sound ∧ (recordOf s w a p).isOf a := by
  refine ⟨⟨rfl, hprof _, List.length_pos_iff.mpr (planBeats_ne _ _ _), fun hk => ?_⟩, rfl, rfl, rfl, rfl, rfl⟩
  have hkind : a.kind = .write := hk
  rw [Access.wellFormed, hkind] at ha
  exact eq_of_beq ha

@[simp] theorem refuseAccess_pp (c : FaultCause) (a : Access) (s : State) : (refuseAccess c a s).pp = .idle := rfl

@[simp] theorem missAccess_pp (a : Access) (s : State) : (missAccess a s).pp = .idle := by
  unfold missAccess
  split
  all_goals rfl

/-- R5: an arrival keeps the three blocks together, whatever its outcome. -/
theorem PortsAndBeat.arrival {s t : State} {a : Access} (h : PortsAndBeat s) (hprof : ProfilesInRange s)
    (hq : QueueSound s.wq) (hi : s.pp = .idle) (ha : a.wellFormed = true) (ht : takeArrival a s = .next t) :
    PortsAndBeat t := by
  obtain ⟨cause, rfl⟩ | rfl | ⟨w, p, rfl⟩ := takeArrival_cases ht
  · exact h.of_ports (by simp [hi]) (by simp) (by simp)
  · exact h.of_ports (by simp [hi]) (by simp) (by simp)
  · obtain ⟨hports, hbeat⟩ : PortsAndBeat (captureWrite a (arrived s a)) :=
      h.of_ports (by simp) (by simp) (by simp)
    obtain ⟨hsound, hof⟩ := recordOf_sound hprof.1 ha w p
    exact routeAccess_sound hports hbeat (by simpa using hi) (by simpa using Nat.le_trans hq.1 hq.2.1) hsound hof rfl

/-! ### Every event -/

theorem PortsAndBeat.service {s : State} (h : PortsAndBeat s) (op : Byte) (p : List Byte) :
    PortsAndBeat (serviceOf op p s).state := by
  obtain ⟨-, -, -, -, hpp, -, hmp, hwq, -⟩ := serviceOf_frame op p s
  exact h.of_ports hpp hmp hwq

/-- The profiles and the queue's bounds, which an arrival relies on, are kept beside the three blocks. -/
theorem portsAndBeat_kept :
    KeptByEvents fun s => (ProfilesInRange s ∧ QueueSound s.wq) ∧ PortsAndBeat s :=
  have hrest := profilesInRange_kept.and queueSound_kept
  { pending := fun s q h => ⟨hrest.pending s q h.1, h.2⟩
    period := fun s h => ⟨hrest.period s h.1, h.2⟩
    clock := fun s h hr => ⟨hrest.clock s h.1 hr, h.2⟩
    line := fun s l i r x h => ⟨hrest.line s l i r x h.1, h.2⟩
    arrival := fun s a t h hr hi ha ht =>
      ⟨hrest.arrival s a t h.1 hr hi ha ht, h.2.arrival h.1.1 h.1.2 hi ha ht⟩
    hold := fun s h => ⟨hrest.hold s h.1, .released s.straps s.sl.linkIn⟩
    release := fun s p l h hr => ⟨hrest.release s p l h.1 hr, .released (sampleStraps p) l⟩
    setupDone := fun s t b h hp hb => ⟨hrest.setupDone s t b h.1 hp hb, h.2.strobeBegun hp hb⟩
    wait := fun s h hp hw => ⟨hrest.wait s h.1 hp hw, h.2.waiting hp hw⟩
    countSetup := fun s h hp hc => ⟨hrest.countSetup s h.1 hp hc, h.2.setupCounted hp hc⟩
    countRecovery := fun s h hp hc => ⟨hrest.countRecovery s h.1 hp hc, h.2.recoveryCounted hp hc⟩
    countStrobe := fun s h hp hc => ⟨hrest.countStrobe s h.1 hp hc, h.2.strobeCounted hp hc⟩
    countWait := fun s h hp hc => ⟨hrest.countWait s h.1 hp hc, h.2.waitCounted hp hc⟩
    beatDone := fun s t b x y h hp hb =>
      ⟨hrest.beatDone s t b x y h.1 hp hb, beatDone_sound h.2.1 hp hb x y⟩
    beatFailed := fun s t b h hp hb => ⟨hrest.beatFailed s t b h.1 hp hb, beatFailed_sound h.2.1 hp hb⟩
    recovery := fun s h hp => ⟨hrest.recovery s h.1 hp, h.2.recovered hp⟩
    address := fun s v h hr =>
      ⟨hrest.address s v h.1 hr, h.2.of_marked (by simp) (by simp) (takeAddress_queue v s)⟩
    linkBreak := fun s h hr =>
      ⟨hrest.linkBreak s h.1 hr, h.2.of_marked (by simp) (by simp) (takeBreak_queue s)⟩
    framingError := fun s h hr => ⟨hrest.framingError s h.1 hr, h.2⟩
    gapTimeout := fun s h hg => ⟨hrest.gapTimeout s h.1 hg, h.2⟩
    turnaroundEnd := fun s h ht => ⟨hrest.turnaroundEnd s h.1 ht, h.2⟩
    nextBit := fun s k b p h ht hb => ⟨hrest.nextBit s k b p h.1 ht hb, h.2⟩
    responseFrameEnd := fun s k b p h ht =>
      ⟨hrest.responseFrameEnd s k b p h.1 ht, h.2.of_ports (by simp) (by simp) (by simp)⟩
    ignored := fun s h hr he => ⟨hrest.ignored s h.1 hr he, h.2⟩
    opcode := fun s l b h hr h1 h2 => ⟨hrest.opcode s l b h.1 hr h1 h2, h.2⟩
    lengthFrame := fun s l c n h hr h1 h2 h3 h4 => ⟨hrest.lengthFrame s l c n h.1 hr h1 h2 h3 h4, h.2⟩
    payloadFrame := fun s l c n b h hr h1 h2 h3 h4 => ⟨hrest.payloadFrame s l c n b h.1 hr h1 h2 h3 h4, h.2⟩
    badLength := fun s l c h hr h1 h2 =>
      ⟨hrest.badLength s l c h.1 hr h1 h2, h.2.of_ports (by simp) (by simp) (by simp)⟩
    badCheck := fun s l c h hr h1 h2 =>
      ⟨hrest.badCheck s l c h.1 hr h1 h2, h.2.of_ports (by simp) (by simp) (by simp)⟩
    service := fun s l c k h hr h1 h2 h3 h4 => ⟨hrest.service s l c k h.1 hr h1 h2 h3 h4,
      carryOut_keeps (P := PortsAndBeat) h.2 (fun p _ hu => hu.service c.opcode p) fun _ _ _ hu => hu⟩ }

/-- Settles O57, by the one case split over a step, with what an arrival relies on carried along. -/
theorem portsStaySound : Obligations.PortsStaySound := by
  intro s t htables _ hqueue hports hbeat ht
  exact (portsAndBeat_kept.step ⟨⟨htables.profiles, hqueue⟩, hports, hbeat⟩ ht).2

end Sys2Proof.Machine
end

section
/-! PROOFS. The outcomes of an arrival: refused, filled, posted, carried, or not seen (R3, R5 to R11). -/
namespace Sys2Proof.Machine

/-! ### Answers -/

theorem operandLanes_get (bytes : List Byte) (i : Fin 4) : (operandLanes bytes)[i] = bytes.getD i 0 := by
  match i with
  | 0 | 1 | 2 | 3 => rfl

/-- R7: the lanes of a FILLED access. -/
theorem fillBytes_getD (a : Access) (fill : Byte) (i : Nat) :
    (fillBytes a fill).getD i 0 = if a.kind ≠ .write ∧ i < a.len.bytes then fill else 0 := by
  unfold fillBytes
  cases a.kind with
  | write => simp
  | read | fetch =>
    simp only [List.getD_eq_getElem?_getD, List.getElem?_replicate]
    by_cases h : i < a.len.bytes
    all_goals simp [h]

/-- R3: an answer at an IDLE port changes nothing but the answer. -/
theorem answerPort_of_idle {s : State} (h : s.pp = .idle) (x : PortAnswer) :
    answerPort x s = { s with answer := some x } := by
  rw [← show s.setPp .idle = s by rw [← h]; rfl]
  rfl

/-- R6, R29: a refused access at an IDLE port. -/
theorem refuseAccess_of_idle {s : State} (h : s.pp = .idle) (cause : FaultCause) (a : Access) :
    refuseAccess cause a s =
      { s with answer := some (.error zeroLanes), fl := s.fl.raise cause a.kind a.len a.start } := by
  rw [refuseAccess, answerPort_of_idle (by simpa using h)]
  rfl

/-- R7, R26: a MISS at an IDLE port under the fill policy. -/
theorem missAccess_fill {s : State} (h : s.pp = .idle) (a : Access) (hf : s.live.globals.missPolicy = .fill) :
    missAccess a s = { s with
      answer := some (.done (operandLanes (fillBytes a s.live.globals.fillByte)))
      fl := s.fl.raise .miss a.kind a.len a.start } := by
  rw [missAccess, hf]
  exact answerPort_of_idle (s := raiseFault .miss a.kind a.len a.start s) (by simpa using h) _

theorem missAccess_error {s : State} (a : Access) (he : s.live.globals.missPolicy = .error) :
    missAccess a s = refuseAccess .miss a s := by
  rw [missAccess, he]

/-- Settles O10: each result of the decoding is one equation of the arrival. -/
theorem refusedOrFilledAccessIsAnswered : Obligations.RefusedOrFilledAccessIsAnswered := by
  intro s a hm
  have hidle : (arrived s a).pp = .idle := hm.2.1
  rw [exec_accessArrival_of_mayArrive hm]
  refine ⟨fun x hd => ?_, fun w hd => ?_, fun hd he => ?_, fun hd hf =>
    ⟨operandLanes (fillBytes a s.live.globals.fillByte), ?_, fun i => ?_⟩⟩
  · rw [takeArrival_straddle hd, refuseAccess_of_idle hidle]
    rfl
  · rw [takeArrival_rights hd, refuseAccess_of_idle hidle]
    rfl
  · rw [takeArrival_miss hd, missAccess_error (s := arrived s a) a he, refuseAccess_of_idle hidle]
    rfl
  · rw [takeArrival_miss hd, missAccess_fill hidle a hf]
    rfl
  · rw [operandLanes_get]
    exact fillBytes_getD a _ i

/-- Settles O13: a busy port and a held RESET each answer the state itself. -/
theorem requestToABusyPortIsNotSeen : Obligations.RequestToABusyPortIsNotSeen := by
  intro s a hwf hbusy
  change execAccessArrival a s = _
  unfold execAccessArrival
  rw [if_pos hwf]
  split
  · rfl
  · rename_i hheld
    split
    · rename_i hidle
      exact absurd (hbusy.resolve_right hheld) (not_not_intro hidle)
    · rfl
    · rfl

/-! ### Grants -/

/-- R103, R104: a grant starts the transaction's beat at beats done. -/
theorem grant_beginsBeat (m : MemPort) (o : Origin) {t : Txn} {b : Beat} (hb : t.beats[t.beatsDone]? = some b) :
    BeginsBeat (m.grant o t b) o t t.beatsDone := by
  have hpins : ∀ c, t.beats[t.beatsDone]? = some c → c = b := by
    intro c hc
    rw [hb] at hc
    exact (Option.some.inj hc).symm
  unfold MemPort.grant MemPort.startBeat
  dsimp only
  split
  · rename_i hsetup
    refine ⟨rfl, rfl, rfl, by simp [startPhase, hsetup, MemPort.enterStrobe], rfl, rfl, fun _ => rfl, ?_⟩
    intro c hc
    rw [hpins c hc]
    exact ⟨rfl, rfl, rfl, rfl, by simp [MemPort.enterStrobe, MemPins.withStrobe],
      by simp [MemPort.enterStrobe, MemPins.withStrobe], rfl⟩
  · rename_i hsetup
    refine ⟨rfl, rfl, rfl, by simp [startPhase, hsetup], rfl, rfl, (by intro h; cases h), ?_⟩
    intro c hc
    rw [hpins c hc]
    exact ⟨rfl, rfl, rfl, rfl, by simp [setupPins], by simp [setupPins], rfl⟩

/-- R88: the record of an accepted access has a first beat. -/
theorem recordOf_firstBeat (s : State) (w : Fin 16) (a : Access) (p : PAddr) :
    ∃ b, (recordOf s w a p).beats[0]? = some b :=
  ⟨_, List.getElem?_eq_getElem (List.length_pos_iff.mpr (planBeats_ne p a.len s.live.windows[w].width))⟩

/-- R114: an IDLE memory port grants the PP transaction that is held for GRANT. -/
theorem arbitrate_held {s : State} {a : Access} {t : Txn} {b : Beat} (hp : s.mp.phase = .idle)
    (hpp : s.pp = .held a t .grant) (hb : t.beats[t.beatsDone]? = some b) :
    arbitrate s = { s with mp := s.mp.grant .port t b, pp := .active a t (emptyOperand t) } := by
  simp only [arbitrate, hp, hpp, grantPort, hb]
  rfl

/-- R114, R127: an IDLE memory port grants the WAITING queue head when PP holds nothing. -/
theorem arbitrate_head {s : State} {e : QueueEntry} {rest : List QueueEntry} {b : Beat} (hp : s.mp.phase = .idle)
    (hpp : s.pp = .idle) (he : s.wq.entries = e :: rest) (hw : e.service = .waiting)
    (hb : e.txn.beats[e.txn.beatsDone]? = some b) :
    arbitrate s = { s with
      mp := s.mp.grant (.queue e.seq) e.txn b
      wq := { s.wq with entries := { e with service := .inService } :: rest } } := by
  have harb : arbitrate s = grantHead s := by simp only [arbitrate, hp, hpp]
  rw [harb]
  simp only [grantHead, he, hw, hb]
  rfl

/-! ### Routes of an accepted access (R8, R9, R11) -/

theorem routeAccess_room {a : Access} {t : Txn} {s : State} (hp : isPosted t = true)
    (hroom : s.wq.entries.length < 8) : routeAccess a t s = arbitrate (admitWrite t s) := by
  rw [routeAccess, if_pos hp, if_pos (show s.wq.entries.length < queueCapacity from hroom)]

theorem routeAccess_full {a : Access} {t : Txn} {s : State} (hp : isPosted t = true)
    (hfull : s.wq.entries.length = 8) : routeAccess a t s = s.setPp (.held a t .space) := by
  rw [routeAccess, if_pos hp, if_neg (by simp [queueCapacity, hfull])]

theorem routeAccess_carried {a : Access} {t : Txn} {s : State} (hc : isPosted t = false) :
    routeAccess a t s = arbitrate (s.setPp (.held a t (carriedWait t s.wq.entries))) := by
  rw [routeAccess, if_neg (by simp [hc])]

/-- R9, R10: an admission at an IDLE port changes the queue and the answer. -/
theorem admitWrite_of_idle {s : State} (h : s.pp = .idle) (t : Txn) :
    admitWrite t s = { s with answer := some (.done zeroLanes), wq := s.wq.enqueue t } := by
  rw [← show s.setPp .idle = s by rw [← h]; rfl]
  rfl

/-- R9, R114, R127: a write admitted to an empty queue at an IDLE memory port is granted at once. -/
theorem arbitrate_admitted {s : State} {t : Txn} {b : Beat} (h : s.pp = .idle) (hp : s.mp.phase = .idle)
    (hnil : s.wq.entries = []) (hb : t.beats[t.beatsDone]? = some b) :
    arbitrate (admitWrite t s) = { s with
      answer := some (.done zeroLanes)
      wq := { s.wq with
        entries := [{ seq := s.wq.nextSeq, service := .inService, txn := { t with origin := .queue s.wq.nextSeq } }]
        nextSeq := s.wq.nextSeq + 1
        highWater := max s.wq.highWater 1 }
      mp := s.mp.grant (.queue s.wq.nextSeq) { t with origin := .queue s.wq.nextSeq } b } := by
  have he : (admitWrite t s).wq.entries =
      [{ seq := s.wq.nextSeq, service := .waiting, txn := { t with origin := .queue s.wq.nextSeq } }] := by
    simp [admitWrite, WriteQueue.enqueue, hnil]
  rw [arbitrate_head (s := admitWrite t s) hp rfl he rfl hb, admitWrite_of_idle h]
  simp [WriteQueue.enqueue, hnil]

/-- R8: an accepted access is POSTED by its kind and its window's order. -/
theorem isPosted_recordOf (s : State) (w : Fin 16) (a : Access) (p : PAddr) :
    isPosted (recordOf s w a p) = (a.kind == .write && s.live.windows[w].order == .relaxed) := rfl

/-- R59: a WRITE commits no bank at its arrival. -/
theorem arrived_banks_of_write {s : State} {a : Access} (hk : a.kind = .write) : (arrived s a).banks = s.banks := by
  simp only [arrived, banksAtArrival, hk]

/-- Settles O11: the three cases of room and memory port, each by its route. -/
theorem postedWriteJoinsTheQueue : Obligations.PostedWriteJoinsTheQueue := by
  intro s a w p hm hk hd ho hp
  have hposted : isPosted (recordOf s w a p) = true := by
    rw [isPosted_recordOf, hk, ho]
    rfl
  have hstart : physicalStart s.live (arrived s a).banks w a.start = some p := by
    rw [arrived_banks_of_write hk]
    exact hp
  have hpp : (captureWrite a (arrived s a)).pp = .idle := by simpa using hm.2.1
  have hwq : (captureWrite a (arrived s a)).wq = s.wq := by simp
  have hmp : (captureWrite a (arrived s a)).mp = s.mp := by simp
  rw [exec_accessArrival_of_mayArrive hm, takeArrival_routed hd hstart]
  refine ⟨fun hroom hbusy => ?_, fun hnil hidle => ?_, fun hfull => ?_⟩
  · rw [routeAccess_room hposted (by rw [hwq]; exact hroom), arbitrate_busy (by simpa using hbusy),
      admitWrite_of_idle hpp, hwq]
    rfl
  · obtain ⟨b, hb⟩ := recordOf_firstBeat s w a p
    refine ⟨_, ?_, grant_beginsBeat s.mp (.queue s.wq.nextSeq)
      (t := { recordOf s w a p with origin := .queue s.wq.nextSeq }) hb⟩
    rw [routeAccess_room hposted (by rw [hwq, hnil]; decide),
      arbitrate_admitted hpp (by simpa using hidle) (by rw [hwq, hnil]) hb, hwq, hmp]
  · rw [routeAccess_full hposted (by rw [hwq]; exact hfull)]
    rfl

/-- R11, R132, R133: the wait condition from order and queue. -/
theorem carriedWait_eq (t : Txn) (entries : List QueueEntry) :
    carriedWait t entries =
      if t.order = .ordered then (if entries = [] then .grant else .empty)
      else if ∃ e ∈ entries, e.txn.overlaps t = true then .overlap else .grant := by
  unfold carriedWait
  cases t.order with
  | ordered => simp
  | relaxed => simp [anyOverlap]

/-- R95: the operand PP begins to collect. -/
theorem emptyOperand_eq (t : Txn) :
    emptyOperand t = if t.kind = .write then [] else List.replicate t.len.bytes none := by
  unfold emptyOperand
  cases t.kind
  all_goals rfl

/-- Settles O12: an IDLE memory port with an empty queue grants the access at once, a busy one leaves it HELD. -/
theorem carriedAccessStartsOrWaits : Obligations.CarriedAccessStartsOrWaits := by
  intro s a w p hm hd hkind hp
  have hcarried : isPosted (recordOf s w a p) = false := by
    rw [isPosted_recordOf]
    rcases hkind with hk | ho
    · rw [beq_false_of_ne hk, Bool.false_and]
    · rw [ho]
      exact Bool.and_false _
  have hwq : (captureWrite a (arrived s a)).wq = s.wq := by simp
  have hmp : (captureWrite a (arrived s a)).mp = s.mp := by simp
  rw [exec_accessArrival_of_mayArrive hm, takeArrival_routed hd hp, routeAccess_carried hcarried, hwq,
    carriedWait_eq]
  refine ⟨fun hidle hnil => ?_, fun hbusy => ?_⟩
  · obtain ⟨b, hb⟩ := recordOf_firstBeat s w a p
    refine ⟨_, ?_, grant_beginsBeat s.mp .port hb⟩
    rw [arbitrate_held (a := a) (t := recordOf s w a p) (b := b) (by simpa using hidle) (by simp [hnil]) hb,
      State.setPp_mp, hmp, emptyOperand_eq]
    rfl
  · rw [arbitrate_busy (by simpa using hbusy)]
    rfl

end Sys2Proof.Machine
end

section
/-! PROOFS. RESET, its release, and the state it leaves (R16, R38, R39, R57, R120, R141, R156, R158, R175). -/
namespace Sys2Proof.Machine

/-! ### The release of RESET -/

theorem exec_resetRelease_none {s : State} (h : s.resetHeld = true) (p : StrapLevels) (high : Bool) :
    exec (.resetRelease p high none) s = .next (releaseReset p high s) := by
  change execResetRelease p high none s = _
  rw [execResetRelease, if_pos h, if_pos (show requestWellFormed none = true from rfl)]

/-- R16: a request raised at the release is an arrival at the released part. -/
theorem exec_resetRelease_some {s : State} {a : Access} (h : s.resetHeld = true) (ha : a.wellFormed = true)
    (p : StrapLevels) (high : Bool) :
    exec (.resetRelease p high (some a)) s = exec (.accessArrival a) (releaseReset p high s) := by
  rw [exec_accessArrival_of_mayArrive (s := releaseReset p high s) ⟨rfl, rfl, ha⟩]
  change execResetRelease p high (some a) s = _
  rw [execResetRelease, if_pos h, if_pos (show requestWellFormed (some a) = true from ha)]

/-! ### The boot set -/

theorem bootSet_window_zero (width : Width) : (bootSet width).windows[0] = bootWindow0 width := by
  simp [bootSet]

theorem bootSet_window_other (width : Width) {i : Fin 16} (h : i ≠ 0) : (bootSet width).windows[i] = bootWindow := by
  have hne : 0 ≠ i.val := fun hv => h (Fin.ext hv.symm)
  simp [bootSet, hne]

theorem bootSet_trigger (width : Width) (i : Fin 4) : (bootSet width).triggers[i] = bootTrigger := by
  simp [bootSet]

/-- R38: window 0 of the boot set covers every logical address. -/
theorem bootWindow0_covers (width : Width) {n : Nat} (h : n < 2 ^ 24) : (bootWindow0 width).covers n = true := by
  simpa [WindowEntry.covers, WindowEntry.size, bootWindow0] using h

/-- R25, R38: under the boot set every access that stays in the address space is accepted in window 0. -/
theorem decodeAccess_bootSet (width : Width) {a : Access} (h : a.start.toNat + a.len.bytes ≤ 2 ^ 24) :
    decodeAccess (bootSet width) a = .accepted 0 := by
  have hlen : 0 < a.len.bytes := by cases a.len <;> decide
  have hlast : lastByte a < 2 ^ 24 := by
    unfold lastByte
    omega
  have hhit : hitWindow (bootSet width) a.start = some 0 := by
    rw [hitWindow, windowIndices, List.find?_cons_of_pos]
    exact Bool.and_eq_true_iff.mpr
      ⟨congrArg WindowEntry.valid (bootSet_window_zero width),
        (congrArg (WindowEntry.covers · a.start.toNat) (bootSet_window_zero width)).trans
          (bootWindow0_covers width (by omega))⟩
  have hgrants : (bootWindow0 width).rights.grants a.kind = true := by
    cases a.kind
    all_goals rfl
  have hw : (bootSet width).windows[(0 : Fin 16)] = bootWindow0 width := bootSet_window_zero width
  simp only [decodeAccess, hhit, hw, bootWindow0_covers width hlast, hgrants, if_true]
  rw [if_neg]
  unfold logicalTop
  omega

/-- R32, R38: under the boot set the physical start is the logical start. -/
theorem physicalStart_bootSet (width : Width) (b : Banks) (start : LAddr) :
    physicalStart (bootSet width) b 0 start = some (BitVec.ofNat 26 start.toNat) := by
  have hw : (bootSet width).windows[(0 : Fin 16)] = bootWindow0 width := bootSet_window_zero width
  simp [physicalStart, hw, bootWindow0]

/-- R38, R39: an access raised at the release has its first beat in window 0, at select 0 and its own address. -/
theorem resetRelease_startsBeat {s : State} {a : Access} (p : StrapLevels) (high : Bool) (h : s.resetHeld = true)
    (ha : a.wellFormed = true) (hfit : a.start.toNat + a.len.bytes ≤ 2 ^ 24) :
    ∃ t, exec (.resetRelease p high (some a)) s = .next t ∧
      ∃ x collected, t.pp = .active a x collected ∧ x.select = 0 ∧ x.physStart.toNat = a.start.toNat ∧
        BeginsBeat t.mp .port x 0 := by
  have hw : (releaseReset p high s).live.windows[(0 : Fin 16)] = bootWindow0 (bootWidthOf p.bootWidth) :=
    bootSet_window_zero _
  obtain ⟨m, hexec, hbegins⟩ := (carriedAccessStartsOrWaits (releaseReset p high s) a 0
    (BitVec.ofNat 26 a.start.toNat) ⟨rfl, rfl, ha⟩ (decodeAccess_bootSet _ hfit) (.inr (by rw [hw]; rfl))
    (physicalStart_bootSet _ _ _)).1 rfl rfl
  rw [exec_resetRelease_some h ha, hexec]
  refine ⟨_, rfl, _, _, rfl, ?_, ?_, hbegins⟩
  · exact congrArg WindowEntry.select hw
  · have := a.start.isLt
    simp only [recordOf, BitVec.toNat_ofNat]
    omega

/-- Settles O3: what RESET and its release leave is the released state, part by part. -/
theorem resetAndRelease : Obligations.ResetAndRelease := by
  refine ⟨fun s => ⟨holdReset s, rfl, ?_⟩, fun s p high h => ⟨releaseReset p high s, ?_⟩,
    fun s p high a h ha hfit => resetRelease_startsBeat p high h ha hfit, fun width => ?_⟩
  · and_intros
    all_goals rfl
  · exact ⟨exec_resetRelease_none h p high, rfl, rfl, rfl, rfl, rfl, rfl, rfl, rfl, rfl, rfl, rfl, rfl, rfl, rfl, rfl,
      rfl, rfl, rfl, rfl, rfl, rfl, rfl, rfl, fun a ha => exec_resetRelease_some h ha p high⟩
  · exact ⟨bootSet_window_zero width, fun i hi => bootSet_window_other width hi, bootSet_profiles width,
      bootSet_trigger width, rfl⟩

/-! ### The state right after reset -/

/-- R38: the boot set is in range. -/
theorem bootSet_inRange (width : Width) : (bootSet width).inRange := by
  have hzero : (bootWindow0 width).inRange :=
    ⟨(by decide : 8 ≤ 24), Nat.le_refl 24, Nat.zero_le 256, nofun, rfl⟩
  have hother : bootWindow.inRange := ⟨by decide, by decide, by decide, nofun, rfl⟩
  refine ⟨fun i => ?_, fun i => ?_⟩
  · by_cases hi : i = 0
    · rw [hi]
      exact (bootSet_window_zero width).symm ▸ hzero
    · rw [bootSet_window_other width hi]
      exact hother
  · rw [bootSet_profiles]
    decide

/-- R38, R51: the boot set passes validation. -/
theorem bootSet_valid (width : Width) : validate (bootSet width) = none := by
  cases width
  all_goals rfl

/-- R57: no window of the boot set is BANKED, and none has bank state. -/
theorem banksSound_released (st : Straps) (high : Bool) : BanksSound (State.released st high) := by
  intro i
  have hnone : (State.released st high).banks[i] = none := by simp [State.released, noBanks]
  have hplain : (State.released st high).live.windows[i].isBanked = false := by
    change (bootSet st.bootWidth).windows[i].isBanked = false
    by_cases hi : i = 0
    · rw [hi]
      exact congrArg WindowEntry.isBanked (bootSet_window_zero st.bootWidth)
    · rw [bootSet_window_other _ hi]
      rfl
  rw [hnone, hplain]
  exact ⟨rfl, nofun⟩

/-- Settles O51, invariant by invariant. -/
theorem resetStateIsSound : Obligations.ResetStateIsSound := by
  obtain ⟨hports, hbeat⟩ : PortsAndBeat State.reset := .released _ _
  refine ⟨⟨bootSet_inRange _, bootSet_inRange _⟩, bootSet_valid _, banksSound_released _ _, ?_, QueueSound.reset, ?_, ?_,
    hports, hbeat, HeldSound.of_notHeld rfl⟩
  · exact ⟨Nat.zero_le _, nofun, rfl⟩
  · exact nofun
  · exact ⟨rfl, rfl, rfl, rfl, rfl, rfl⟩

end Sys2Proof.Machine
end

section
/-! PROOFS. A step with no command waiting (log 3, 5, 12). -/
namespace Sys2Proof.Machine

/-- R158, R168, R170, R171: the link's timers move on as the statement words it. -/
theorem advance_eq_ticked (l : ServiceLink) : l.advance = l.ticked := by
  have hsince : (if l.countsFromCommand then l.sinceCommand + 1 else l.sinceCommand) = l.ticked.sinceCommand := by
    unfold ServiceLink.countsFromCommand ServiceLink.ticked
    cases l.receiver with
    | executing | unselected | selected => rfl
    | responding => cases l.transmitter <;> rfl
  have htick : l.transmitter.tick = l.ticked.transmitter := by
    unfold Transmitter.tick ServiceLink.ticked
    cases l.transmitter <;> rfl
  rw [ServiceLink.advance, hsince, htick]
  rfl

theorem step_of_empty {s : State} (h : s.pending = []) : step s = idlePeriod s := by
  rw [step, h]

/-- Settles O2: a period is that of a held RESET or a run on some inputs, in one of four orders. -/
theorem emptyQueueIsOnePeriod : Obligations.EmptyQueueIsOnePeriod := by
  refine ⟨fun s hs => ⟨fun hr => ?_, fun hr => ?_⟩, fun mrdy level lane0 lane1 s u hu => ?_⟩
  · rw [step_of_empty hs, idlePeriod, if_pos hr]
    rfl
  · rw [step_of_empty hs, idlePeriod, if_neg (by simp [hr])]
    exact ⟨_, _, _, _, _, _, rfl⟩
  · have hs1 : (s.setPeriod (s.period + 1)).setSl s.sl.advance = u := by
      rw [hu, advance_eq_ticked]
      rfl
    simp [runPeriod, hs1, linkPeriod]

end Sys2Proof.Machine
end

section
/-! PROOFS. The reports of a beat: lanes, operand assembly, completion, timeout (R12 to R14, R93 to R97, R108 to
R112). -/
namespace Sys2Proof.Machine

/-! ### Lanes of the planned beats (R88 to R90, R93 to R95) -/

/-- R88: the two lanes of a beat carry different operand positions. -/
def Beat.distinctPositions (b : Beat) : Prop :=
  ∀ i j, b.lanes = .both i j → i ≠ j

/-- R90: a step of the walk that uses both lanes carries the next two positions. -/
theorem planWide_distinct (a pos : Nat) : ∀ r, ∀ b ∈ planWide a pos r, b.distinctPositions := by
  intro r
  induction a, pos, r using planWide.induct with
  | case1 => simp [planWide]
  | case2 a pos ha =>
    rw [planWide, if_pos ha]
    simp [Beat.distinctPositions]
  | case3 a pos ha =>
    rw [planWide, if_neg ha]
    simp [Beat.distinctPositions]
  | case4 a pos r ha ih =>
    rw [planWide, if_pos ha]
    exact List.forall_mem_cons.mpr ⟨nofun, ih⟩
  | case5 a pos r ha ih =>
    rw [planWide, if_neg ha]
    refine List.forall_mem_cons.mpr ⟨?_, ih⟩
    intro i j hij
    cases hij
    omega

theorem planBeats_distinct (p : PAddr) (l : Len) (width : Width) :
    ∀ b ∈ planBeats p l width, b.distinctPositions := by
  cases width with
  | w16 => exact planWide_distinct _ _ _
  | w8 =>
    intro b hb
    obtain ⟨i, -, rfl⟩ := List.mem_map.mp hb
    exact nofun

/-- R93: each carried byte stands on its lane. -/
theorem Beat.drive_carried (b : Beat) (data : List Byte) :
    ∀ c ∈ b.carries, (if c.2.2 then (b.lanes.drive data).2 else (b.lanes.drive data).1) = data.getD c.1 0 := by
  obtain ⟨addr, lanes⟩ := b
  cases lanes
  all_goals simp [Beat.carries, BeatLanes.drive]

/-- R93: a lane is enabled exactly when it carries a byte. -/
theorem Beat.uses_iff (b : Beat) :
    (b.lanes.uses0 = true ↔ ∃ c ∈ b.carries, c.2.2 = false) ∧
      (b.lanes.uses1 = true ↔ ∃ c ∈ b.carries, c.2.2 = true) := by
  obtain ⟨addr, lanes⟩ := b
  cases lanes
  all_goals simp [Beat.carries, BeatLanes.uses0, BeatLanes.uses1]

/-- R93: an unused lane is driven 0. -/
theorem BeatLanes.drive_unused (l : BeatLanes) (data : List Byte) :
    (l.uses0 = false → (l.drive data).1 = 0) ∧ (l.uses1 = false → (l.drive data).2 = 0) := by
  cases l
  all_goals simp [BeatLanes.uses0, BeatLanes.uses1, BeatLanes.drive]

/-- R95: each carried position is filled from its lane. -/
theorem Beat.fill_carried {b : Beat} (h : b.distinctPositions) (x y : Byte) (collected : List (Option Byte)) :
    ∀ c ∈ b.carries, c.1 < collected.length →
      (b.lanes.fill x y collected)[c.1]? = some (some (if c.2.2 then y else x)) := by
  obtain ⟨addr, lanes⟩ := b
  cases lanes with
  | lane0 i | lane1 i => simp +contextual [Beat.carries, BeatLanes.fill]
  | both i j =>
    have hne : j ≠ i := (h i j rfl).symm
    simp +contextual [Beat.carries, BeatLanes.fill, hne]

/-- R95: a position that the beat does not carry stays as it was. -/
theorem Beat.fill_other (b : Beat) (x y : Byte) (collected : List (Option Byte)) (i : Nat)
    (h : ∀ c ∈ b.carries, c.1 ≠ i) : (b.lanes.fill x y collected)[i]? = collected[i]? := by
  obtain ⟨addr, lanes⟩ := b
  cases lanes with
  | lane0 p | lane1 p =>
    have hp : p ≠ i := by simpa [Beat.carries] using h
    simp [BeatLanes.fill, hp]
  | both p q =>
    obtain ⟨hp, hq⟩ : p ≠ i ∧ q ≠ i := by simpa [Beat.carries] using h
    simp [BeatLanes.fill, hp, hq]

theorem Beat.movesItsBytes_of_distinct {b : Beat} (h : b.distinctPositions) : b.movesItsBytes :=
  ⟨fun data => b.drive_carried data, b.uses_iff.1, b.uses_iff.2, fun data => b.lanes.drive_unused data,
    fun x y collected => ⟨fill_length b.lanes x y collected, b.fill_carried h x y collected,
      fun i => b.fill_other x y collected i⟩⟩

/-! ### Reports of a beat under way (R108, R110, R118) -/

theorem exec_beatComplete_of_running {s : State} {t : Txn} {b : Beat} (hr : s.mp.strobeRunning = true)
    (hb : currentBeat s = some (t, b)) (x y : Byte) :
    exec (.beatComplete x y) s = .next (beatDone b x y s) := by
  change execBeatComplete x y s = _
  rw [execBeatComplete, if_pos hr, completeBeat, hb]

theorem exec_beatTimeout_of_running {s : State} {t : Txn} {b : Beat} (hr : s.mp.strobeRunning = true)
    (hm : s.mp.mayTimeOut = true) (hb : currentBeat s = some (t, b)) :
    exec .beatTimeout s = .next (beatFailed t b s) := by
  change execBeatTimeout s = _
  rw [execBeatTimeout, if_pos hr, if_pos hm, timeoutBeat, hb]

theorem strobeRunning_of_phase {m : MemPort} (h : m.phase = .strobe ∨ m.phase = .readyWait) :
    m.strobeRunning = true := by
  rcases h with h | h
  all_goals simp [MemPort.strobeRunning, h]

/-- R106, R107, R110: a READY beat may time out in READY_WAIT, or in STROBE with no period left to wait. -/
theorem mayTimeOut_of_phase {m : MemPort} (h : m.phase = .strobe ∨ m.phase = .readyWait)
    (hmode : m.timing.mode = .ready) (hlimit : m.phase = .strobe → m.timing.limit ≤ m.timing.strobe) : m.mayTimeOut = true := by
  rcases h with h | h
  · simp [MemPort.mayTimeOut, h, hmode, hlimit h]
  · simp [MemPort.mayTimeOut, h, hmode]

theorem PortBeat.currentBeat_eq {s : State} {a : Access} {t : Txn} {collected : List (Option Byte)} {b : Beat}
    (h : PortBeat s a t collected b) : currentBeat s = some (t, b) := by
  obtain ⟨-, hcur, hpp, hb⟩ := h
  rw [currentBeat_port hcur hpp, hb]
  rfl

theorem QueueBeat.currentBeat_eq {s : State} {e : QueueEntry} {rest : List QueueEntry} {b : Beat}
    (h : QueueBeat s e rest b) : currentBeat s = some (e.txn, b) := by
  obtain ⟨-, hcur, he, hsv, hb⟩ := h
  rw [currentBeat_queue hcur he hsv rfl, hb]
  rfl

/-- R12, R118: PP acts on the complete report of its own beat. -/
theorem PortBeat.beatDone_eq {s : State} {a : Access} {t : Txn} {collected : List (Option Byte)} {b : Beat}
    (h : PortBeat s a t collected b) (x y : Byte) :
    beatDone b x y s = afterReport (portBeatDone a t b collected x y { s with mp := s.mp.ended .complete }) := by
  obtain ⟨-, hcur, hpp, -⟩ := h
  have hcur' : (s.mp.endStrobe .complete).current = some .port := hcur
  simp only [beatDone, ownerBeatDone, State.setMp_mp, State.setMp_pp, hcur', hpp]
  rfl

/-- R95: the lanes of an assembled operand. -/
theorem operandBytes_getD (collected : List (Option Byte)) (i : Nat) :
    (operandBytes collected).getD i 0 = (collected.getD i none).getD 0 := by
  rw [operandBytes, List.getD_eq_getElem?_getD, List.getD_eq_getElem?_getD, List.getElem?_map]
  cases collected[i]?
  all_goals rfl

/-- R12: PP counts a beat that is not the last and keeps the operand it has so far. -/
theorem portBeatDone_more {t : Txn} (h : t.beatsDone + 1 ≠ t.beats.length) (a : Access) (b : Beat)
    (collected : List (Option Byte)) (x y : Byte) (s : State) :
    portBeatDone a t b collected x y s = { s with
      pp := .active a { t with beatsDone := t.beatsDone + 1 }
        (if t.kind = .write then collected else b.lanes.fill x y collected) } := by
  rw [portBeatDone, if_neg (by simpa [Txn.onLastBeat] using h)]
  rfl

/-- R13: at the last beat PP answers DONE with the operand and is IDLE. -/
theorem portBeatDone_last {t : Txn} (h : t.beatsDone + 1 = t.beats.length) (a : Access) (b : Beat)
    (collected : List (Option Byte)) (x y : Byte) (s : State) :
    portBeatDone a t b collected x y s = { s with
      pp := .idle
      answer := some (answerDone (operandBytes
        (if t.kind = .write then collected else b.lanes.fill x y collected))) } := by
  rw [portBeatDone, if_pos (by simpa [Txn.onLastBeat] using h)]
  rfl

/-- Settles O17: the report is PP's own action, split at the last beat; the planned beats carry distinct positions. -/
theorem portBeatCompletes : Obligations.PortBeatCompletes := by
  refine ⟨fun s a t collected b x y h => ?_, fun p l width b hb =>
    Beat.movesItsBytes_of_distinct (planBeats_distinct p l width b hb)⟩
  rw [exec_beatComplete_of_running (strobeRunning_of_phase h.1) h.currentBeat_eq, h.beatDone_eq]
  refine ⟨fun hmore => ?_, fun hlast => ⟨_, by rw [portBeatDone_last hlast]; rfl, fun hk i => ?_, fun hk hnil => ?_⟩⟩
  · rw [portBeatDone_more hmore]
  · rw [if_neg hk, operandLanes_get, operandBytes_getD]
  · rw [if_pos hk, hnil]
    rfl

/-- Settles O19: the report of a timeout goes to the owner of the beat. -/
theorem beatTimeoutIsAnsweredOrRemovesTheHead : Obligations.BeatTimeoutIsAnsweredOrRemovesTheHead := by
  refine ⟨fun s a t collected b h hmode hlimit => ?_, fun s e rest b h hmode hlimit => ?_⟩
  · rw [exec_beatTimeout_of_running (strobeRunning_of_phase h.1) (mayTimeOut_of_phase h.1 hmode hlimit)
      h.currentBeat_eq]
    obtain ⟨-, hcur, -, -⟩ := h
    have hcur' : (s.mp.endStrobe .timeout).current = some .port := hcur
    simp only [beatFailed, ownerTimeout, State.setMp_mp, hcur']
    rfl
  · rw [exec_beatTimeout_of_running (strobeRunning_of_phase h.1) (mayTimeOut_of_phase h.1 hmode hlimit)
      h.currentBeat_eq]
    obtain ⟨-, hcur, -, -, -⟩ := h
    have hcur' : (s.mp.endStrobe .timeout).current = some (.queue e.seq) := hcur
    simp only [beatFailed, ownerTimeout, State.setMp_mp, hcur']
    rfl

end Sys2Proof.Machine
end

section
/-! PROOFS. The removal of the queue head: marker and held access (R10, R11, R124 to R126, R132, R133, R138, R193). -/
namespace Sys2Proof.Machine

/-! ### The drain marker at a removal -/

/-- R138: a removed entry of the marked range counts by its cause. -/
theorem DrainMarker.count_eq_counted {m : DrainMarker} {seq : Byte}
    (h : (seq - m.first).toNat ≤ (m.last - m.first).toNat) (cause : RemovalCause) :
    m.count cause seq = m.counted cause := by
  unfold DrainMarker.count
  rw [if_pos (show m.contains seq = true from decide_eq_true h)]
  cases cause
  all_goals rfl

theorem settleMarker_unmarked {s : State} (h : s.wq.marker = none) (cause : RemovalCause) (seq : Byte) :
    settleMarker cause seq s = s := by
  simp only [settleMarker, h]

/-- R138: a marked entry before the last is counted. -/
theorem settleMarker_counts {s : State} {m : DrainMarker} {seq : Byte} (h : s.wq.marker = some m)
    (hne : seq ≠ m.last) (hin : (seq - m.first).toNat ≤ (m.last - m.first).toNat) (cause : RemovalCause) :
    settleMarker cause seq s = { s with wq := { s.wq with marker := some (m.counted cause) } } := by
  simp only [settleMarker, h, if_neg hne, DrainMarker.count_eq_counted hin]
  rfl

/-- R138, R193: the removal of the last marked entry releases the marker and ends the DRAIN with its counts. -/
theorem settleMarker_ends {s : State} {m : DrainMarker} {seq : Byte} (h : s.wq.marker = some m)
    (hlast : seq = m.last) (cause : RemovalCause) :
    settleMarker cause seq s = { s with
      wq := { s.wq with marker := none }
      sl := s.sl.finish s.straps .ok [BitVec.ofNat 8 (m.counted cause).marked,
        BitVec.ofNat 8 (m.counted cause).completed, BitVec.ofNat 8 (m.counted cause).timedOut] } := by
  subst hlast
  simp only [settleMarker, h, if_true, DrainMarker.count_eq_counted (Nat.le_refl _)]
  rfl

/-- R138: of the queue, the marker alone changes. -/
theorem settleMarker_queue (cause : RemovalCause) (seq : Byte) (s : State) :
    (settleMarker cause seq s).wq = { s.wq with marker := (settleMarker cause seq s).wq.marker } := by
  unfold settleMarker
  split
  · rfl
  · split
    all_goals rfl

/-! ### The held access at a removal -/

theorem retakeHeld_space {s : State} {a : Access} {t : Txn} (h : s.pp = .held a t .space) :
    retakeHeld s = admitWrite t s := by
  simp only [retakeHeld, h]

theorem retakeHeld_overlap {s : State} {a : Access} {t : Txn} (h : s.pp = .held a t .overlap) :
    retakeHeld s = { s with
      pp := .held a t (if ∃ f ∈ s.wq.entries, f.txn.overlaps t = true then .overlap else .grant) } := by
  have hany : anyOverlap s.wq.entries t = true ↔ ∃ f ∈ s.wq.entries, f.txn.overlaps t = true := by
    simp [anyOverlap]
  simp only [retakeHeld, h]
  by_cases hov : anyOverlap s.wq.entries t = true
  · rw [if_pos hov, if_pos (hany.mp hov), ← h]
  · rw [if_neg hov, if_neg (fun hc => hov (hany.mpr hc))]
    rfl

theorem retakeHeld_empty {s : State} {a : Access} {t : Txn} (h : s.pp = .held a t .empty) :
    retakeHeld s = { s with pp := .held a t (if s.wq.entries = [] then .grant else .empty) } := by
  simp only [retakeHeld, h, List.isEmpty_iff]
  by_cases hnil : s.wq.entries = []
  · rw [if_pos hnil, if_pos hnil]
    rfl
  · rw [if_neg hnil, if_neg hnil, ← h]

/-- R11: what is not held, or is eligible already, is left alone. -/
theorem retakeHeld_settled {s : State} (h : ∀ a t w, s.pp = .held a t w → w = .grant) : retakeHeld s = s := by
  unfold retakeHeld
  split
  · rename_i a t hpp
    cases h a t _ hpp
  · rename_i a t hpp
    cases h a t _ hpp
  · rename_i a t hpp
    cases h a t _ hpp
  all_goals rfl

/-- R126: only a write held for SPACE moves answer and queue. -/
theorem retakeHeld_of_notSpace {s : State} (h : ∀ a t, s.pp ≠ .held a t .space) :
    (retakeHeld s).answer = s.answer ∧ (retakeHeld s).wq = s.wq := by
  unfold retakeHeld
  split
  · rename_i a t hpp
    exact absurd hpp (h a t)
  · split
    all_goals exact ⟨rfl, rfl⟩
  · split
    all_goals exact ⟨rfl, rfl⟩
  all_goals exact ⟨rfl, rfl⟩

theorem retakeHeld_marker (s : State) : (retakeHeld s).wq.marker = s.wq.marker := by
  unfold retakeHeld
  repeat' split
  all_goals rfl

/-! ### The removal -/

/-- The state after the head has left and the marker is settled, before PP's held access is taken again. -/
def settled (cause : RemovalCause) (e : QueueEntry) (rest : List QueueEntry) (s : State) : State :=
  settleMarker cause e.seq (s.setWq { s.wq with entries := rest })

theorem removeHead_cons {s : State} {e : QueueEntry} {rest : List QueueEntry} (he : s.wq.entries = e :: rest)
    (cause : RemovalCause) : removeHead cause s = retakeHeld (settled cause e rest s) := by
  simp only [removeHead, he, settled]

@[simp] theorem settled_pp (cause : RemovalCause) (e : QueueEntry) (rest : List QueueEntry) (s : State) :
    (settled cause e rest s).pp = s.pp := by
  simp [settled]

@[simp] theorem settled_answer (cause : RemovalCause) (e : QueueEntry) (rest : List QueueEntry) (s : State) :
    (settled cause e rest s).answer = s.answer := by
  simp [settled]

@[simp] theorem settled_entries (cause : RemovalCause) (e : QueueEntry) (rest : List QueueEntry) (s : State) :
    (settled cause e rest s).wq.entries = rest := by
  rw [settled, settleMarker_queue]
  rfl

@[simp] theorem settled_nextSeq (cause : RemovalCause) (e : QueueEntry) (rest : List QueueEntry) (s : State) :
    (settled cause e rest s).wq.nextSeq = s.wq.nextSeq := by
  rw [settled, settleMarker_queue]
  rfl

@[simp] theorem settled_highWater (cause : RemovalCause) (e : QueueEntry) (rest : List QueueEntry) (s : State) :
    (settled cause e rest s).wq.highWater = s.wq.highWater := by
  rw [settled, settleMarker_queue]
  rfl

theorem settled_unmarked {s : State} (h : s.wq.marker = none) (cause : RemovalCause) (e : QueueEntry)
    (rest : List QueueEntry) : settled cause e rest s = { s with wq := { s.wq with entries := rest } } :=
  settleMarker_unmarked (s := s.setWq { s.wq with entries := rest }) h cause e.seq

theorem settled_counts {s : State} {m : DrainMarker} {e : QueueEntry} (h : s.wq.marker = some m)
    (hne : e.seq ≠ m.last) (hin : (e.seq - m.first).toNat ≤ (m.last - m.first).toNat) (cause : RemovalCause)
    (rest : List QueueEntry) : settled cause e rest s =
      { s with wq := { s.wq with entries := rest, marker := some (m.counted cause) } } :=
  settleMarker_counts (s := s.setWq { s.wq with entries := rest }) h hne hin cause

theorem settled_ends {s : State} {m : DrainMarker} {e : QueueEntry} (h : s.wq.marker = some m)
    (hlast : e.seq = m.last) (cause : RemovalCause) (rest : List QueueEntry) : settled cause e rest s = { s with
      wq := { s.wq with entries := rest, marker := none }
      sl := s.sl.finish s.straps .ok [BitVec.ofNat 8 (m.counted cause).marked,
        BitVec.ofNat 8 (m.counted cause).completed, BitVec.ofNat 8 (m.counted cause).timedOut] } :=
  settleMarker_ends (s := s.setWq { s.wq with entries := rest }) h hlast cause

/-- R128, R129: a removal changes PP's state and answer, the queue and the link, and nothing else. -/
theorem removeHead_eq (cause : RemovalCause) (s : State) :
    removeHead cause s = { s with
      pp := (removeHead cause s).pp
      answer := (removeHead cause s).answer
      wq := (removeHead cause s).wq
      sl := (removeHead cause s).sl } := by
  obtain ⟨h1, h2, h3, h4, h5, h6, h7, h8, h9⟩ := removeHead_frame cause s
  rw [← h1, ← h2, ← h3, ← h4, ← h5, ← h6, ← h7, ← h8, ← h9]

/-- R126, R138: marker and link after a removal are as the marker's settling leaves them. -/
theorem removeHead_marker_link {s : State} {e : QueueEntry} {rest : List QueueEntry} (he : s.wq.entries = e :: rest)
    (cause : RemovalCause) : (removeHead cause s).wq.marker = (settled cause e rest s).wq.marker ∧
      (removeHead cause s).sl = (settled cause e rest s).sl := by
  rw [removeHead_cons he]
  exact ⟨retakeHeld_marker _, by simp⟩

/-- Settles O21: field by field of the state the removal leaves. -/
theorem removalAdmitsGrantsAndDrains : Obligations.RemovalAdmitsGrantsAndDrains := by
  intro s e rest cause he
  have hrem := removeHead_cons he cause
  obtain ⟨hmarker, hlink⟩ := removeHead_marker_link he cause
  refine ⟨_, _, (removeHead cause s).wq.entries, (removeHead cause s).wq.nextSeq, (removeHead cause s).wq.highWater,
    (removeHead cause s).wq.marker, _, removeHead_eq cause s, fun a t hpp => ?_, fun hpp => ?_, fun a t hpp => ?_,
    fun a t hpp => ?_, fun hpp => ?_, fun hm => ?_, fun m hm hne hin => ?_, fun m hm hlast => ?_⟩
  · rw [hrem, retakeHeld_space (by simpa using hpp)]
    simp only [admitWrite, WriteQueue.enqueue, State.setAnswer_pp, State.setPp_pp, State.setAnswer_answer,
      State.setAnswer_wq, State.setPp_wq, State.setWq_wq, settled_entries, settled_nextSeq, settled_highWater,
      and_true, true_and]
    rfl
  · obtain ⟨hanswer, hwq⟩ := retakeHeld_of_notSpace (s := settled cause e rest s) (by simpa using hpp)
    rw [hrem, hanswer, hwq, settled_answer, settled_entries, settled_nextSeq, settled_highWater]
    exact ⟨rfl, rfl, rfl, rfl⟩
  · rw [hrem, retakeHeld_overlap (by simpa using hpp), settled_entries]
  · rw [hrem, retakeHeld_empty (by simpa using hpp), settled_entries]
  · rw [hrem, retakeHeld_settled (by simpa using hpp), settled_pp]
  · rw [hmarker, hlink, settled_unmarked hm]
    exact ⟨hm, rfl⟩
  · rw [hmarker, hlink, settled_counts hm hne hin]
    exact ⟨rfl, rfl⟩
  · rw [hmarker, hlink, settled_ends hm hlast]
    refine ⟨rfl, fun hb => ?_, fun ha => ?_⟩
    · simp only [ServiceLink.finish, hb]
      rfl
    · simp only [ServiceLink.finish, ha]
      rfl

end Sys2Proof.Machine
end

section
/-! PROOFS. The window decoder: range, hit window, the four checks in order, and translation (R21 to R32, R58). -/
namespace Sys2Proof.Machine

/-! ### Ranges and rights -/

/-- R21: the decoder's test of a range is the range of the statements. -/
theorem WindowEntry.covers_iff_holds (w : WindowEntry) (a : Nat) : w.covers a = true ↔ w.holds a :=
  decide_eq_true_iff

/-- R28: the decoder's test of the rights, kind by kind. -/
theorem Rights.grants_iff_include (r : Rights) (k : AccessKind) : r.grants k = true ↔ r.include k := by
  cases k
  all_goals simp [Rights.grants, Rights.include]

theorem len_bytes_pos (l : Len) : 0 < l.bytes := by
  cases l
  all_goals decide

/-! ### The hit window -/

/-- The search through the windows finds the one of lowest index that passes. -/
theorem find?_windowIndices_eq_some_iff {p : Fin 16 → Bool} {w : Fin 16} :
    windowIndices.find? p = some w ↔ p w = true ∧ ∀ v, v < w → ¬ p v = true := by
  have hget : ∀ (j : Nat) (hj : j < windowIndices.length), windowIndices[j] = ⟨j, hj⟩ :=
    fun j hj => windowIndices_get ⟨j, hj⟩
  rw [List.find?_eq_some_iff_getElem]
  refine and_congr_right fun _ => ⟨?_, fun h => ?_⟩
  · rintro ⟨i, hi, hiw, hbelow⟩ v hv
    rw [hget, Fin.ext_iff] at hiw
    have hvi : v.val < i := Nat.lt_of_lt_of_eq (Fin.lt_def.mp hv) hiw.symm
    simpa [hget] using hbelow v.val hvi
  · refine ⟨w.val, w.isLt, windowIndices_get w, fun j hj => ?_⟩
    rw [hget]
    simpa using h ⟨j, Nat.lt_trans hj w.isLt⟩ hj

theorem hitWindow_eq_some_iff {t : TableSet} {start : LAddr} {w : Fin 16} :
    hitWindow t start = some w ↔
      (t.windows[w].valid = true ∧ t.windows[w].holds start.toNat) ∧
        ∀ v : Fin 16, v < w → ¬ (t.windows[v].valid = true ∧ t.windows[v].holds start.toNat) := by
  simp only [hitWindow, find?_windowIndices_eq_some_iff, Bool.and_eq_true, WindowEntry.covers_iff_holds]

theorem hitWindow_eq_none_iff {t : TableSet} {start : LAddr} :
    hitWindow t start = none ↔ ∀ v : Fin 16, ¬ (t.windows[v].valid = true ∧ t.windows[v].holds start.toNat) := by
  simp only [hitWindow, List.find?_eq_none, mem_windowIndices, true_implies, Bool.and_eq_true,
    WindowEntry.covers_iff_holds]

/-! ### The four checks -/

/-- R24: the first check, before any window is looked at. -/
theorem decodeAccess_past {t : TableSet} {a : Access} (h : logicalTop < lastByte a) :
    decodeAccess t a = .straddle none :=
  if_pos h

/-- R26: the second check. -/
theorem decodeAccess_unhit {t : TableSet} {a : Access} (h : ¬ logicalTop < lastByte a)
    (hw : hitWindow t a.start = none) : decodeAccess t a = .miss := by
  simp only [decodeAccess, h, hw, if_false]

/-- R27, R28: the third and fourth check, in the hit window. -/
theorem decodeAccess_hit {t : TableSet} {a : Access} {w : Fin 16} (h : ¬ logicalTop < lastByte a)
    (hw : hitWindow t a.start = some w) :
    decodeAccess t a =
      if t.windows[w].covers (lastByte a) then
        if t.windows[w].rights.grants a.kind then .accepted w else .rights w
      else .straddle (some w) := by
  simp only [decodeAccess, h, hw, if_false]

/-- An access with a hit window is neither a MISS nor a STRADDLE without one. -/
theorem decodeAccess_hit_ne {t : TableSet} {a : Access} {w : Fin 16} (h : ¬ logicalTop < lastByte a)
    (hw : hitWindow t a.start = some w) : decodeAccess t a ≠ .miss ∧ decodeAccess t a ≠ .straddle none := by
  rw [decodeAccess_hit h hw]
  split
  · split
    all_goals exact ⟨nofun, nofun⟩
  · exact ⟨nofun, nofun⟩

theorem decodeAccess_eq_straddle_none_iff {t : TableSet} {a : Access} :
    decodeAccess t a = .straddle none ↔ logicalTop < lastByte a := by
  refine ⟨fun hd => Decidable.byContradiction fun h => ?_, decodeAccess_past⟩
  cases hw : hitWindow t a.start with
  | none =>
    rw [decodeAccess_unhit h hw] at hd
    cases hd
  | some w => exact (decodeAccess_hit_ne h hw).2 hd

theorem decodeAccess_eq_miss_iff {t : TableSet} {a : Access} (h : ¬ logicalTop < lastByte a) :
    decodeAccess t a = .miss ↔ hitWindow t a.start = none := by
  refine ⟨fun hd => ?_, decodeAccess_unhit h⟩
  cases hw : hitWindow t a.start with
  | none => rfl
  | some w => exact absurd hd (decodeAccess_hit_ne h hw).1

/-- R28: an accepted access lies, first byte to last, in the range of the valid window it is accepted in. -/
theorem holds_of_accepted {t : TableSet} {a : Access} {w : Fin 16} (hd : decodeAccess t a = .accepted w) :
    t.windows[w].valid = true ∧ t.windows[w].holds a.start.toNat ∧ t.windows[w].holds (lastByte a) := by
  have h : ¬ logicalTop < lastByte a := fun h => by
    rw [decodeAccess_past h] at hd
    cases hd
  cases hw : hitWindow t a.start with
  | none =>
    rw [decodeAccess_unhit h hw] at hd
    cases hd
  | some v =>
    rw [decodeAccess_hit h hw] at hd
    split at hd
    · rename_i hlast
      split at hd
      · cases hd
        obtain ⟨⟨hvalid, hstart⟩, -⟩ := hitWindow_eq_some_iff.mp hw
        exact ⟨hvalid, hstart, (WindowEntry.covers_iff_holds _ _).mp hlast⟩
      · cases hd
    · cases hd

/-! ### The statements about decoding -/

/-- Settles O4: the first check is made before any window is looked at; the rest is arithmetic of the length. -/
theorem accessPastTopStraddles : Obligations.AccessPastTopStraddles := by
  intro t a
  have hstart : a.start.toNat < 2 ^ 24 := a.start.isLt
  refine ⟨decodeAccess_past, decodeAccess_eq_straddle_none_iff.mp, ?_⟩
  cases a.len with
  | one =>
    simp only [Len.bytes, reduceCtorEq, false_and, or_false, iff_false]
    omega
  | two =>
    simp only [Len.bytes, reduceCtorEq, false_and, or_false, true_and, BitVec.toNat_eq, BitVec.ofNat_eq_ofNat,
      BitVec.toNat_ofNat]
    omega
  | four =>
    simp only [Len.bytes, reduceCtorEq, false_and, false_or, true_and, BitVec.toNat_eq, BitVec.ofNat_eq_ofNat,
      BitVec.toNat_ofNat]
    omega

/-- Settles O5: the decoder searches the windows in ascending order of index. -/
theorem lowestWindowContainingStartIsHit : Obligations.LowestWindowContainingStartIsHit :=
  fun _ _ _ => hitWindow_eq_some_iff

/-- Settles O6: the checks after the first, each by its equation of the decoding. -/
theorem decodingChecksInOrder : Obligations.DecodingChecksInOrder := by
  intro t a hfit
  have h : ¬ logicalTop < lastByte a := by
    have := len_bytes_pos a.len
    unfold logicalTop lastByte
    omega
  refine ⟨(decodeAccess_eq_miss_iff h).trans hitWindow_eq_none_iff, fun w hw => ?_⟩
  simp only [decodeAccess_hit h hw, ← WindowEntry.covers_iff_holds, ← Rights.grants_iff_include]
  refine ⟨fun hlast => if_neg hlast, fun hlast hright => ?_, fun hlast hright => ?_⟩
  · exact (if_pos hlast).trans (if_neg hright)
  · exact (if_pos hlast).trans (if_pos hright)

/-! ### Translation -/

/-- R45: a set passes validation only if no window of it fails a check. -/
theorem windowFault_of_valid {t : TableSet} (h : validate t = none) (i : Fin 16) : windowFault t.windows[i] = none := by
  unfold validate at h
  split at h
  · cases h
  · rename_i hwalk
    simpa using List.findSome?_eq_none_iff.mp hwalk i (mem_windowIndices i)

/-- R46: the physical extent of a valid window without a fault ends within the select. -/
theorem physEnd_le_of_windowFault {w : WindowEntry} (hvalid : w.valid = true) (h : windowFault w = none) :
    w.physEnd ≤ 2 ^ 26 := by
  refine Nat.le_of_not_lt fun hlt => ?_
  simp only [windowFault, hvalid, hlt, if_true] at h
  split at h
  · cases h
  · split at h
    all_goals cases h

/-- R22: n bytes that end within the select begin at a physical address that is the sum p itself, not wrapped. -/
theorem toNat_ofNat_of_fits {p n : Nat} (hn : 0 < n) (h : p + n ≤ 2 ^ 26) :
    (BitVec.ofNat 26 p).toNat = p ∧ (BitVec.ofNat 26 p).toNat + n ≤ 2 ^ 26 := by
  have hp : (BitVec.ofNat 26 p).toNat = p := by
    rw [BitVec.toNat_ofNat]
    exact Nat.mod_eq_of_lt (by omega)
  exact ⟨hp, by omega⟩

theorem physicalStart_plain {t : TableSet} {w : Fin 16} (h : t.windows[w].kind = .plain) (b : Banks) (start : LAddr) :
    physicalStart t b w start =
      some (BitVec.ofNat 26 (t.windows[w].physBase.toNat + (start.toNat - t.windows[w].logicalBase.toNat))) := by
  rw [physicalStart, h]

theorem physicalStart_banked {t : TableSet} {w : Fin 16} (h : t.windows[w].kind = .banked) {b : Banks} {k : BankState}
    (hk : b[w] = some k) (start : LAddr) :
    physicalStart t b w start =
      some (BitVec.ofNat 26 (t.windows[w].physBase.toNat + k.active.toNat * 2 ^ t.windows[w].sizeExp
        + (start.toNat - t.windows[w].logicalBase.toNat))) := by
  rw [physicalStart, h, hk]
  rfl

/-- R58: a bank below the bank count lies, with its whole size, in the region. -/
theorem bank_end_le {active count size : Nat} (h : active < count) : active * size + size ≤ count * size :=
  calc active * size + size = (active + 1) * size := (Nat.succ_mul _ _).symm
    _ ≤ count * size := Nat.mul_le_mul_right _ h

/-- Settles O7: the offset of an accepted access lies in the window, and the window's physical extent in the select. -/
theorem translationStaysInTheSelect : Obligations.TranslationStaysInTheSelect := by
  intro s a w hlive hbanks hd
  obtain ⟨hvalid, hstart, hlast⟩ := holds_of_accepted hd
  have hend := physEnd_le_of_windowFault hvalid (windowFault_of_valid hlive w)
  have hlen := len_bytes_pos a.len
  have hoffset : (a.start.toNat - s.live.windows[w].logicalBase.toNat) + a.len.bytes ≤
      2 ^ s.live.windows[w].sizeExp := by
    unfold lastByte at hlast
    omega
  refine ⟨fun hkind => ?_, fun hkind => ?_⟩
  · simp only [WindowEntry.physEnd, hkind, WindowEntry.size] at hend
    exact ⟨_, physicalStart_plain hkind _ _, toNat_ofNat_of_fits hlen (by omega)⟩
  · obtain ⟨hsome, hsound⟩ := hbanks w
    have hbanked : s.live.windows[w].isBanked = true := by
      rw [WindowEntry.isBanked, hvalid, hkind]
      rfl
    obtain ⟨k, hk⟩ := Option.isSome_iff_exists.mp (hsome.trans hbanked)
    obtain ⟨hactive, -, -⟩ := hsound k hk
    have hbank := bank_end_le (size := 2 ^ s.live.windows[w].sizeExp) hactive
    simp only [WindowEntry.physEnd, hkind, WindowEntry.size] at hend
    exact ⟨_, k, hk, physicalStart_banked hkind hk _, toNat_ofNat_of_fits hlen (by omega)⟩

end Sys2Proof.Machine
end

section
/-! PROOFS. The formats of table entries: what each byte holds, and that entries are read back (R20, R42, R43, R181,
R198, R199). -/
namespace Sys2Proof.Machine

/-! ### Little-endian values (section 10.8) -/

theorem leBytes_eq_map (k v : Nat) : leBytes k v = (List.range k).map fun i => BitVec.ofNat 8 (v >>> (8 * i)) := by
  induction k generalizing v with
  | zero => rfl
  | succ k ih =>
    have hshift : ∀ i, (v / 256) >>> (8 * i) = v >>> (8 * (i + 1)) := fun i => by
      rw [Nat.mul_succ, Nat.add_comm, Nat.shiftRight_add, Nat.shiftRight_eq_div_pow v 8, show 2 ^ 8 = 256 from rfl]
    rw [leBytes, ih, List.range_succ_eq_map, List.map_cons, List.map_map]
    exact congrArg (BitVec.ofNat 8 v :: ·) (List.map_congr_left fun i _ => congrArg (BitVec.ofNat 8) (hshift i))

/-- A logical address as three bytes. -/
theorem leBytes_logical (x : LAddr) :
    leBytes 3 x.toNat = [x.extractLsb' 0 8, x.extractLsb' 8 8, x.extractLsb' 16 8] :=
  leBytes_eq_map 3 x.toNat

/-- A physical address as four bytes. -/
theorem leBytes_physical (x : PAddr) : leBytes 4 x.toNat = physBytes x := by
  have hwide : (x.zeroExtend 32).toNat = x.toNat := BitVec.toNat_setWidth_of_le (by decide)
  have htop : (x.zeroExtend 32).extractLsb' 24 8 = BitVec.ofNat 8 (x.toNat >>> 24) :=
    congrArg (fun n => BitVec.ofNat 8 (n >>> 24)) hwide
  rw [leBytes_eq_map, physBytes, htop]
  rfl

theorem leValue_leBytes (k v : Nat) : leValue (leBytes k v) = v % 256 ^ k := by
  induction k generalizing v with
  | zero => rw [Nat.pow_zero, Nat.mod_one]; rfl
  | succ k ih =>
    rw [Nat.pow_succ', Nat.mod_mul, ← ih (v / 256)]
    rfl

/-- A byte put below a value. -/
theorem toNat_append_byte {n : Nat} (x : BitVec n) (b : Byte) : (x ++ b).toNat = b.toNat + 256 * x.toNat := by
  rw [BitVec.toNat_append, ← Nat.shiftLeft_add_eq_or_of_lt b.isLt, Nat.shiftLeft_eq]
  omega

theorem leValue_three (b0 b1 b2 : Byte) : leValue [b0, b1, b2] = (b2 ++ b1 ++ b0).toNat := by
  simp only [leValue, toNat_append_byte, Nat.mul_zero, Nat.add_zero]

theorem leValue_four (b0 b1 b2 b3 : Byte) : leValue [b0, b1, b2, b3] = (b3 ++ b2 ++ b1 ++ b0).toNat := by
  simp only [leValue, toNat_append_byte, Nat.mul_zero, Nat.add_zero]

theorem ofNat_toNat_same {n : Nat} (x : BitVec n) : BitVec.ofNat n x.toNat = x :=
  (BitVec.ofNat_toNat n x).trans (BitVec.setWidth_eq x)

/-- A logical address is read back from its three bytes. -/
theorem ofNat_leValue_logical (x : LAddr) : BitVec.ofNat 24 (leValue (leBytes 3 x.toNat)) = x := by
  rw [leValue_leBytes, Nat.mod_eq_of_lt (show x.toNat < 256 ^ 3 from x.isLt), ofNat_toNat_same]

theorem leValue_physical (x : PAddr) : leValue (leBytes 4 x.toNat) = x.toNat := by
  rw [leValue_leBytes]
  exact Nat.mod_eq_of_lt (Nat.lt_trans x.isLt (by decide))

theorem toNat_ofNat_byte {n : Nat} (h : n < 256) : (BitVec.ofNat 8 n).toNat = n :=
  (BitVec.toNat_ofNat n 8).trans (Nat.mod_eq_of_lt h)

/-! ### Codes (section 10.8) -/

theorem policyOf_code (p : CommitPolicy) : policyOf p.code = some p := by
  cases p
  all_goals rfl

theorem code_of_policyOf {b : Byte} {p : CommitPolicy} (h : policyOf b = some p) : p.code = b := by
  unfold policyOf at h
  split at h
  case h_4 => cases h
  all_goals
    rename_i hb
    cases h
    exact BitVec.eq_of_toNat_eq hb.symm

theorem readyModeOf_code (m : ReadyMode) : readyModeOf m.code = some m := by
  cases m
  all_goals rfl

theorem missPolicyOf_code (m : MissPolicy) : missPolicyOf m.code = some m := by
  cases m
  all_goals rfl

theorem readYesNo_yesNo (b : Bool) : readYesNo (yesNo b) = some b := by
  cases b
  all_goals rfl

/-! ### Absent fields (R20, R42) -/

theorem windowKind_cases (k : WindowKind) : k = .plain ∨ k = .banked := by
  cases k
  · exact .inl rfl
  · exact .inr rfl

theorem clearAbsent_plain {w : WindowEntry} (h : w.kind = .plain) :
    w.clearAbsent = { w with bankCount := 0, initialBank := 0, policy := .atOnce, landing := 0 } := by
  rw [WindowEntry.clearAbsent, h]

theorem clearAbsent_banked {w : WindowEntry} (h : w.kind = .banked) :
    w.clearAbsent = { w with landing := if w.policy = .atLanding then w.landing else 0 } := by
  unfold WindowEntry.clearAbsent
  split
  · rename_i hk
    cases hk.symm.trans h
  · rename_i hp
    rw [if_pos hp]
  · rename_i hp
    rw [hp]
    rfl
  · rename_i hp
    rw [hp]
    rfl

/-- The fields that every entry has stay as they are. -/
theorem clearAbsent_present (w : WindowEntry) :
    w.clearAbsent.valid = w.valid ∧ w.clearAbsent.logicalBase = w.logicalBase ∧
      w.clearAbsent.sizeExp = w.sizeExp ∧ w.clearAbsent.kind = w.kind ∧ w.clearAbsent.select = w.select ∧
      w.clearAbsent.physBase = w.physBase ∧ w.clearAbsent.width = w.width ∧ w.clearAbsent.profile = w.profile ∧
      w.clearAbsent.rights = w.rights ∧ w.clearAbsent.order = w.order := by
  cases h : w.kind with
  | plain => simp [clearAbsent_plain h, h]
  | banked => simp [clearAbsent_banked h, h]

theorem clearAbsent_idem (w : WindowEntry) : w.clearAbsent.clearAbsent = w.clearAbsent := by
  cases h : w.kind with
  | plain =>
    rw [clearAbsent_plain h]
    exact clearAbsent_plain h
  | banked =>
    rw [clearAbsent_banked h, clearAbsent_banked (by exact h)]
    split
    all_goals rfl

/-! ### Offered window entries (R42, R181, R198) -/

/-- The kind that an offered entry's byte 0 names. -/
def offeredKind (bytes : List Byte) : WindowKind :=
  if (bytes.getD 0 0).getLsbD 1 then .banked else .plain

theorem offeredKind_plain {bytes : List Byte} (h : (bytes.getD 0 0).getLsbD 1 = false) :
    offeredKind bytes = .plain := by
  rw [offeredKind, h]
  rfl

theorem offeredKind_banked {bytes : List Byte} (h : (bytes.getD 0 0).getLsbD 1 = true) :
    offeredKind bytes = .banked := by
  rw [offeredKind, h]
  rfl

/-- R42: the fields judged whatever the kind lie in their ranges. -/
def OfferedInRange (bytes : List Byte) : Prop :=
  8 ≤ (bytes.getD 1 0).toNat ∧ (bytes.getD 1 0).toNat ≤ 24 ∧ (bytes.getD 2 0).toNat % 16 ≤ 7 ∧
    (bytes.getD 2 0).toNat / 16 ≤ 7 ∧
    leValue [bytes.getD 6 0, bytes.getD 7 0, bytes.getD 8 0, bytes.getD 9 0] ≤ 0x3FFFFFF ∧
    (bytes.getD 0 0).getLsbD 7 = false

/-- The entry that 16 bytes offer, its absent fields as offered, with the commit policy pol. -/
def offeredEntry (bytes : List Byte) (pol : CommitPolicy) : WindowEntry :=
  { valid := (bytes.getD 0 0).getLsbD 0
    logicalBase := BitVec.ofNat 24 (leValue [bytes.getD 3 0, bytes.getD 4 0, bytes.getD 5 0])
    sizeExp := (bytes.getD 1 0).toNat
    kind := offeredKind bytes
    select := Fin.ofNat 8 ((bytes.getD 2 0).toNat % 16)
    physBase := BitVec.ofNat 26 (leValue [bytes.getD 6 0, bytes.getD 7 0, bytes.getD 8 0, bytes.getD 9 0])
    width := if (bytes.getD 0 0).getLsbD 3 then .w16 else .w8
    profile := Fin.ofNat 8 ((bytes.getD 2 0).toNat / 16)
    rights := { read := (bytes.getD 0 0).getLsbD 4, write := (bytes.getD 0 0).getLsbD 5,
                fetch := (bytes.getD 0 0).getLsbD 6 }
    order := if (bytes.getD 0 0).getLsbD 2 then .ordered else .relaxed
    bankCount := (bytes.getD 10 0).toNat + 1
    initialBank := bytes.getD 11 0
    policy := pol
    landing := BitVec.ofNat 24 (leValue [bytes.getD 13 0, bytes.getD 14 0, bytes.getD 15 0]) }

/-- R42, R181: which bytes are accepted, and what is stored for them. -/
theorem decodeWindow_eq_some_iff {bytes : List Byte} {w : WindowEntry} :
    decodeWindow bytes = some w ↔
      bytes.length = 16 ∧ OfferedInRange bytes ∧
        ∃ pol, offeredPolicy (offeredKind bytes) (bytes.getD 12 0) = some pol ∧
          (offeredEntry bytes pol).clearAbsent = w := by
  constructor
  · intro h
    unfold decodeWindow at h
    split at h
    · dsimp only at h
      split at h
      · rename_i hrange
        split at h
        · cases h
        · rename_i pol hpol
          exact ⟨rfl, hrange, pol, hpol, Option.some.inj h⟩
      · cases h
    · cases h
  · rintro ⟨hlen, hrange, pol, hpol, rfl⟩
    match bytes, hlen with
    | [a, _, _, _, _, _, _, _, _, _, _, _, policy, _, _, _], _ =>
      have hpol' : offeredPolicy (if a.getLsbD 1 then .banked else .plain) policy = some pol := hpol
      refine (if_pos hrange).trans ?_
      rw [hpol']
      rfl

/-- R19, R20: what WRITE_WINDOW stores is in range. -/
theorem decodeWindow_inRange {bytes : List Byte} {w : WindowEntry} (h : decodeWindow bytes = some w) : w.inRange := by
  obtain ⟨-, ⟨hmin, hmax, -⟩, pol, -, rfl⟩ := decodeWindow_eq_some_iff.mp h
  have hcount := (bytes.getD 10 0).isLt
  obtain ⟨-, -, hsize, hkind, -⟩ := clearAbsent_present (offeredEntry bytes pol)
  refine ⟨hsize ▸ hmin, hsize ▸ hmax, ?_, fun hbanked => ?_, clearAbsent_idem _⟩
  · cases hk : (offeredEntry bytes pol).kind with
    | plain =>
      rw [clearAbsent_plain hk]
      exact Nat.zero_le _
    | banked =>
      rw [clearAbsent_banked hk]
      exact hcount
  · rw [clearAbsent_banked (hkind.symm.trans hbanked)]
    exact Nat.succ_pos _

/-! ### What is stored for an offered entry -/

/-- R198: the present fields of an accepted entry, as its bytes offer them. -/
theorem decodeWindow_present {bytes : List Byte} {w : WindowEntry} (h : decodeWindow bytes = some w) :
    w.valid = (bytes.getD 0 0).getLsbD 0 ∧ w.kind = offeredKind bytes ∧
    w.order = (if (bytes.getD 0 0).getLsbD 2 then .ordered else .relaxed) ∧
    w.width = (if (bytes.getD 0 0).getLsbD 3 then .w16 else .w8) ∧
    w.rights = { read := (bytes.getD 0 0).getLsbD 4, write := (bytes.getD 0 0).getLsbD 5,
                 fetch := (bytes.getD 0 0).getLsbD 6 } ∧
    w.sizeExp = (bytes.getD 1 0).toNat ∧ w.select.val = (bytes.getD 2 0).toNat % 16 ∧
    w.profile.val = (bytes.getD 2 0).toNat / 16 ∧
    w.logicalBase = bytes.getD 5 0 ++ bytes.getD 4 0 ++ bytes.getD 3 0 ∧
    w.physBase.toNat = (bytes.getD 9 0 ++ bytes.getD 8 0 ++ bytes.getD 7 0 ++ bytes.getD 6 0).toNat := by
  obtain ⟨-, ⟨-, -, hselect, hprofile, hphys, -⟩, pol, -, rfl⟩ := decodeWindow_eq_some_iff.mp h
  obtain ⟨h1, h2, h3, h4, h5, h6, h7, h8, h9, h10⟩ := clearAbsent_present (offeredEntry bytes pol)
  rw [h1, h2, h3, h4, h5, h6, h7, h8, h9, h10]
  refine ⟨rfl, rfl, rfl, rfl, rfl, rfl, Nat.mod_eq_of_lt (by omega), Nat.mod_eq_of_lt (by omega), ?_, ?_⟩
  · simp only [offeredEntry, leValue_three]
    exact ofNat_toNat_same _
  · simp only [offeredEntry, BitVec.toNat_ofNat, ← leValue_four]
    exact Nat.mod_eq_of_lt (by omega)

/-- R20, R42: an accepted PLAIN entry is stored with zeros in the fields it has not. -/
theorem decodeWindow_plain {bytes : List Byte} {w : WindowEntry} (h : decodeWindow bytes = some w)
    (hk : (bytes.getD 0 0).getLsbD 1 = false) :
    w.bankCount = 0 ∧ w.initialBank = 0 ∧ w.policy.code = 0 ∧ w.landing = 0 := by
  obtain ⟨-, -, pol, -, rfl⟩ := decodeWindow_eq_some_iff.mp h
  have hplain : (offeredEntry bytes pol).kind = .plain := offeredKind_plain hk
  rw [clearAbsent_plain hplain]
  exact ⟨rfl, rfl, rfl, rfl⟩

/-- R42, R181: an accepted BANKED entry keeps its bank fields, and its landing offset under AT_LANDING alone. -/
theorem decodeWindow_banked {bytes : List Byte} {w : WindowEntry} (h : decodeWindow bytes = some w)
    (hk : (bytes.getD 0 0).getLsbD 1 = true) :
    w.bankCount = (bytes.getD 10 0).toNat + 1 ∧ w.initialBank = bytes.getD 11 0 ∧
      w.policy.code = bytes.getD 12 0 ∧
      w.landing = if bytes.getD 12 0 = 2 then bytes.getD 15 0 ++ bytes.getD 14 0 ++ bytes.getD 13 0 else 0 := by
  obtain ⟨-, -, pol, hpol, rfl⟩ := decodeWindow_eq_some_iff.mp h
  have hbanked : offeredKind bytes = .banked := offeredKind_banked hk
  rw [hbanked] at hpol
  have hcode : pol.code = bytes.getD 12 0 := code_of_policyOf hpol
  have hland : BitVec.ofNat 24 (leValue [bytes.getD 13 0, bytes.getD 14 0, bytes.getD 15 0]) =
      bytes.getD 15 0 ++ bytes.getD 14 0 ++ bytes.getD 13 0 := by
    rw [leValue_three]
    exact ofNat_toNat_same _
  rw [clearAbsent_banked (by exact hbanked), ← hcode, ← hland]
  refine ⟨rfl, rfl, rfl, ?_⟩
  cases pol
  all_goals rfl

/-- Offers that agree on the fields judged whatever the kind, name the same policy, and are alike once their absent
fields are cleared, are accepted and stored alike. -/
theorem decodeWindow_congr {b c : List Byte} (hb : b.length = 16) (hc : c.length = 16)
    (hagree : ∀ i, i < 10 → b.getD i 0 = c.getD i 0)
    (hpol : offeredPolicy (offeredKind b) (b.getD 12 0) = offeredPolicy (offeredKind c) (c.getD 12 0))
    (hentry : ∀ pol, offeredPolicy (offeredKind b) (b.getD 12 0) = some pol →
      (offeredEntry b pol).clearAbsent = (offeredEntry c pol).clearAbsent) :
    decodeWindow b = decodeWindow c := by
  have hrange : OfferedInRange b ↔ OfferedInRange c := by
    simp only [OfferedInRange, hagree, Nat.reduceLT]
  refine Option.ext fun w => ?_
  simp only [decodeWindow_eq_some_iff, hb, hc, hrange, ← hpol]
  refine and_congr_right fun _ => and_congr_right fun _ => exists_congr fun pol => and_congr_right fun h => ?_
  rw [hentry pol h]

theorem getD_append_of_lt {bytes : List Byte} (rest : List Byte) {i : Nat} (h : i < bytes.length) :
    (bytes ++ rest).getD i 0 = bytes.getD i 0 := by
  rw [List.getD_eq_getElem?_getD, List.getElem?_append_left h, List.getD_eq_getElem?_getD]

/-- R20, R42: the bytes of the fields that a PLAIN entry has not make no difference. -/
theorem decodeWindow_ignores_bankFields {b c : List Byte} (hb : b.length = 16) (hc : c.length = 16)
    (hagree : ∀ i, i < 10 → b.getD i 0 = c.getD i 0) (hk : (b.getD 0 0).getLsbD 1 = false) :
    decodeWindow b = decodeWindow c := by
  have hkind : offeredKind b = offeredKind c := by
    simp only [offeredKind, hagree, Nat.reduceLT]
  have hplain : offeredKind b = .plain := offeredKind_plain hk
  have hplain' : offeredKind c = .plain := hkind ▸ hplain
  refine decodeWindow_congr hb hc hagree (by rw [hplain, hplain']; rfl) fun pol _ => ?_
  rw [clearAbsent_plain (w := offeredEntry b pol) hplain, clearAbsent_plain (w := offeredEntry c pol) hplain']
  simp only [offeredEntry, hkind, hagree, Nat.reduceLT]

/-- R20, R42: the landing bytes of a BANKED entry of another policy than AT_LANDING make no difference. -/
theorem decodeWindow_ignores_landing {b c : List Byte} (hb : b.length = 16) (hc : c.length = 16)
    (hagree : ∀ i, i < 13 → b.getD i 0 = c.getD i 0) (hk : (b.getD 0 0).getLsbD 1 = true)
    (hcode : b.getD 12 0 ≠ 2) : decodeWindow b = decodeWindow c := by
  have hkind : offeredKind b = offeredKind c := by
    simp only [offeredKind, hagree, Nat.reduceLT]
  have hbanked : offeredKind b = .banked := offeredKind_banked hk
  have hbanked' : offeredKind c = .banked := hkind ▸ hbanked
  refine decodeWindow_congr hb hc (fun i hi => hagree i (by omega)) (by rw [hkind, hagree 12 (by decide)])
    fun pol hpol => ?_
  have hland : pol ≠ .atLanding := by
    rintro rfl
    rw [hbanked] at hpol
    exact hcode (code_of_policyOf hpol).symm
  rw [clearAbsent_banked (w := offeredEntry b pol) hbanked, clearAbsent_banked (w := offeredEntry c pol) hbanked']
  simp only [offeredEntry, hkind, hagree, Nat.reduceLT, hland, if_false]

/-! ### Window entries read back -/

theorem bitAt_sum_getLsbD : ∀ b0 b1 b2 b3 b4 b5 b6 : Bool, ∀ k : Fin 8,
    (BitVec.ofNat 8 (bitAt b0 0 + bitAt b1 1 + bitAt b2 2 + bitAt b3 3 + bitAt b4 4 + bitAt b5 5
      + bitAt b6 6)).getLsbD k = [b0, b1, b2, b3, b4, b5, b6, false].getD k false := by
  decide

/-- R198: the bits of byte 0. -/
theorem attributes_getLsbD (w : WindowEntry) (k : Fin 8) :
    (BitVec.ofNat 8 w.attributes).getLsbD k =
      [w.valid, w.kind == .banked, w.order == .ordered, w.width == .w16, w.rights.read, w.rights.write, w.rights.fetch,
        false].getD k false :=
  bitAt_sum_getLsbD _ _ _ _ _ _ _ k

theorem offeredKind_encodeWindow (w : WindowEntry) : offeredKind (encodeWindow w) = w.kind := by
  have hbit : ((encodeWindow w).getD 0 0).getLsbD 1 = (w.kind == .banked) := attributes_getLsbD w 1
  rw [offeredKind, hbit]
  cases w.kind
  all_goals rfl

/-- R198: the byte of select and profile. -/
theorem selectProfile_toNat (w : WindowEntry) :
    ((encodeWindow w).getD 2 0).toNat = w.select.val + 16 * w.profile.val :=
  toNat_ofNat_byte (by omega)

/-- Every field but the bank count is read back as it was, absent or not. -/
theorem offeredEntry_encodeWindow {w : WindowEntry} (h : w.sizeExp ≤ 24) :
    offeredEntry (encodeWindow w) w.policy = { w with bankCount := w.countByte.toNat + 1 } := by
  have hwidth : ((encodeWindow w).getD 0 0).getLsbD 3 = (w.width == .w16) := attributes_getLsbD w 3
  have horder : ((encodeWindow w).getD 0 0).getLsbD 2 = (w.order == .ordered) := attributes_getLsbD w 2
  have hrights : w.rights = { read := ((encodeWindow w).getD 0 0).getLsbD 4
                              write := ((encodeWindow w).getD 0 0).getLsbD 5
                              fetch := ((encodeWindow w).getD 0 0).getLsbD 6 } :=
    (congr (congr (congrArg Rights.mk (attributes_getLsbD w 4)) (attributes_getLsbD w 5))
      (attributes_getLsbD w 6)).symm
  rw [offeredEntry, WindowEntry.mk.injEq, offeredKind_encodeWindow, selectProfile_toNat, hwidth, horder]
  refine ⟨attributes_getLsbD w 0, ofNat_leValue_logical _, toNat_ofNat_byte (by omega), rfl, ?_, ?_, ?_, ?_,
    hrights.symm, ?_, rfl, rfl, rfl, ofNat_leValue_logical _⟩
  · exact Fin.ext (by simp only [Fin.ofNat]; omega)
  · exact (congrArg (BitVec.ofNat 26) (leValue_physical w.physBase)).trans (ofNat_toNat_same _)
  · cases w.width
    all_goals rfl
  · exact Fin.ext (by simp only [Fin.ofNat]; omega)
  · cases w.order
    all_goals rfl

/-- R20: the policy of an entry with its absent fields zero is the one its code stands for. -/
theorem offeredPolicy_code {w : WindowEntry} (h : w.clearAbsent = w) :
    offeredPolicy w.kind w.policy.code = some w.policy := by
  cases hk : w.kind with
  | plain =>
    have hpol : w.policy = .atOnce := by
      rw [← h, clearAbsent_plain hk]
    rw [hpol]
    rfl
  | banked => exact policyOf_code w.policy

/-- R198: byte 10 tells the bank count of a BANKED entry. -/
theorem clearAbsent_with_countByte {w : WindowEntry} (h : w.inRange) :
    WindowEntry.clearAbsent { w with bankCount := w.countByte.toNat + 1 } = w := by
  obtain ⟨-, -, hmax, hmin, hclear⟩ := h
  obtain hk | hk := windowKind_cases w.kind
  · exact (clearAbsent_plain (by exact hk)).trans ((clearAbsent_plain hk).symm.trans hclear)
  · have hcount : w.countByte.toNat + 1 = w.bankCount := by
      have := hmin hk
      rw [WindowEntry.countByte, hk]
      exact (congrArg (· + 1) (toNat_ofNat_byte (by omega))).trans (by omega)
    rw [hcount]
    exact hclear

theorem offeredInRange_encodeWindow {w : WindowEntry} (h : w.inRange) : OfferedInRange (encodeWindow w) := by
  obtain ⟨hmin, hmax, -⟩ := h
  have hsize : ((encodeWindow w).getD 1 0).toNat = w.sizeExp := toNat_ofNat_byte (by omega)
  have hphys := w.physBase.isLt
  refine ⟨hsize ▸ hmin, hsize ▸ hmax, ?_, ?_, ?_, attributes_getLsbD w 7⟩
  · rw [selectProfile_toNat]
    omega
  · rw [selectProfile_toNat]
    omega
  · exact Nat.le_trans (Nat.le_of_eq (leValue_physical w.physBase)) (by omega)

theorem decodeWindow_encodeWindow {w : WindowEntry} (h : w.inRange) : decodeWindow (encodeWindow w) = some w := by
  obtain ⟨-, hsize, -, -, hclear⟩ := id h
  refine decodeWindow_eq_some_iff.mpr ⟨rfl, offeredInRange_encodeWindow h, w.policy, ?_, ?_⟩
  · rw [offeredKind_encodeWindow]
    exact offeredPolicy_code hclear
  · rw [offeredEntry_encodeWindow hsize]
    exact clearAbsent_with_countByte h

/-- R198: what each byte of a window entry holds, byte 0 aside. -/
theorem encodeWindow_bytes (w : WindowEntry) :
    encodeWindow w =
      [BitVec.ofNat 8 w.attributes, BitVec.ofNat 8 w.sizeExp, BitVec.ofNat 8 (w.select.val + 16 * w.profile.val)] ++
      [w.logicalBase.extractLsb' 0 8, w.logicalBase.extractLsb' 8 8, w.logicalBase.extractLsb' 16 8] ++
      physBytes w.physBase ++
      [if w.kind = .banked then BitVec.ofNat 8 (w.bankCount - 1) else 0, w.initialBank, w.policy.code] ++
      [w.landing.extractLsb' 0 8, w.landing.extractLsb' 8 8, w.landing.extractLsb' 16 8] := by
  have hcount : w.countByte = if w.kind = .banked then BitVec.ofNat 8 (w.bankCount - 1) else 0 := by
    unfold WindowEntry.countByte
    cases w.kind
    all_goals rfl
  rw [encodeWindow, leBytes_logical, leBytes_logical, leBytes_physical, hcount]

/-! ### Profiles, triggers, globals -/

theorem decodeProfile_encodeProfile {p : Profile} (h : p.inRange = true) :
    decodeProfile (encodeProfile p) = some p := by
  obtain ⟨hsetup, -, hstrobe, -, hlimit, -, hrecovery⟩ := of_decide_eq_true h
  have hl : leValue (leBytes 2 p.limit) = p.limit :=
    (leValue_leBytes 2 p.limit).trans (Nat.mod_eq_of_lt (by omega))
  have h1 : (BitVec.ofNat 8 p.setup).toNat = p.setup := toNat_ofNat_byte (by omega)
  have h2 : (BitVec.ofNat 8 p.strobe).toNat = p.strobe := toNat_ofNat_byte (by omega)
  have h3 : (BitVec.ofNat 8 p.recovery).toNat = p.recovery := toNat_ofNat_byte (by omega)
  simp only [leBytes] at hl
  simp only [encodeProfile, leBytes, List.cons_append, List.nil_append, decodeProfile, readyModeOf_code, h1, h2, h3, hl,
    h, if_true]

theorem encodeProfile_bytes (p : Profile) :
    encodeProfile p =
      [BitVec.ofNat 8 p.setup, BitVec.ofNat 8 p.strobe, if p.mode = .ready then 1 else 0, BitVec.ofNat 8 p.limit,
        BitVec.ofNat 8 (p.limit / 256), BitVec.ofNat 8 p.recovery] := by
  have hmode : p.mode.code = if p.mode = .ready then 1 else 0 := by
    cases p.mode
    all_goals rfl
  rw [← hmode]
  rfl

theorem decodeTrigger_encodeTrigger (g : Trigger) : decodeTrigger (encodeTrigger g) = some g := by
  have htarget : (BitVec.ofNat 8 g.target.val).toNat = g.target.val := toNat_ofNat_byte (by omega)
  have hle : g.target.val ≤ 15 := Nat.le_of_lt_succ g.target.isLt
  have haddr := ofNat_leValue_logical g.addr
  simp only [leBytes] at haddr
  simp only [encodeTrigger, leBytes, List.cons_append, List.nil_append, decodeTrigger, readYesNo_yesNo, htarget, hle,
    haddr, Fin.ofNat_val_eq_self, if_true]

theorem encodeTrigger_bytes (g : Trigger) :
    encodeTrigger g =
      [if g.enabled then 1 else 0, g.addr.extractLsb' 0 8, g.addr.extractLsb' 8 8, g.addr.extractLsb' 16 8,
        BitVec.ofNat 8 g.target.val] := by
  rw [encodeTrigger, leBytes_logical]
  rfl

theorem decodeGlobals_encodeGlobals (g : Globals) : decodeGlobals (encodeGlobals g) = some g := by
  simp only [encodeGlobals, decodeGlobals, missPolicyOf_code]

theorem encodeGlobals_bytes (g : Globals) : encodeGlobals g = [if g.missPolicy = .fill then 1 else 0, g.fillByte] := by
  have hpolicy : g.missPolicy.code = if g.missPolicy = .fill then 1 else 0 := by
    cases g.missPolicy
    all_goals rfl
  rw [encodeGlobals, hpolicy]

/-- Settles O50: the bytes written, the entries read back, and what is stored for an accepted offer. -/
theorem tableEntriesRoundTrip : Obligations.TableEntriesRoundTrip := by
  refine ⟨fun w hw => ⟨rfl, decodeWindow_encodeWindow hw⟩, fun p hp => ⟨rfl, decodeProfile_encodeProfile hp⟩,
    fun g => ⟨rfl, decodeTrigger_encodeTrigger g⟩, fun g => ⟨rfl, decodeGlobals_encodeGlobals g⟩, fun w => ?_,
    encodeProfile_bytes, encodeTrigger_bytes, encodeGlobals_bytes, ?_, ?_, ?_⟩
  · exact ⟨BitVec.ofNat 8 w.attributes, encodeWindow_bytes w, attributes_getLsbD w 0, attributes_getLsbD w 1,
      attributes_getLsbD w 2, attributes_getLsbD w 3, attributes_getLsbD w 4, attributes_getLsbD w 5,
      attributes_getLsbD w 6, attributes_getLsbD w 7⟩
  · intro a e sp l0 l1 l2 p0 p1 p2 p3 count initial policy o0 o1 o2 w h
    obtain ⟨hvalid, hkind, horder, hwidth, hrights, hsize, hselect, hprofile, hbase, hphys⟩ :=
      decodeWindow_present h
    exact ⟨hvalid, hkind, horder, hwidth, hrights, hsize, hselect, hprofile, hbase, hphys, decodeWindow_plain h,
      decodeWindow_banked h⟩
  · intro present absent other hp ha ho hk
    have hfirst : ∀ rest : List Byte, ∀ i, i < 10 → (present ++ rest).getD i 0 = present.getD i 0 :=
      fun rest i hi => getD_append_of_lt rest (by omega)
    refine decodeWindow_ignores_bankFields (by simp [hp, ha]) (by simp [hp, ho])
      (fun i hi => (hfirst absent i hi).trans (hfirst other i hi).symm) ?_
    rw [hfirst absent 0 (by decide), hk]
  · intro present absent other hp ha ho hk hpolicy
    have hfirst : ∀ rest : List Byte, ∀ i, i < 13 → (present ++ rest).getD i 0 = present.getD i 0 :=
      fun rest i hi => getD_append_of_lt rest (by omega)
    refine decodeWindow_ignores_landing (by simp [hp, ha]) (by simp [hp, ho])
      (fun i hi => (hfirst absent i hi).trans (hfirst other i hi).symm) ?_ ?_
    · rw [hfirst absent 0 (by decide), hk]
    · rwa [hfirst absent 12 (by decide)]

end Sys2Proof.Machine
end

section
/-! PROOFS. Both table sets at every event: what can change them, and that they stay in range and valid (R19, R35,
R40 to R44, R51). -/
namespace Sys2Proof.Machine

/-! ### What can change the table sets -/

/-- A property of the two table sets that the released part has and every service command keeps is kept by every
event: RESET and the service commands alone change the sets. -/
theorem keptByEvents_of_tables {P : State → Prop}
    (htables : ∀ s t, P s → t.live = s.live → t.staged = s.staged → P t)
    (hreleased : ∀ st high, P (State.released st high))
    (hservice : ∀ op p s, P s → P (serviceOf op p s).state) : KeptByEvents P where
  pending s _ h := htables s _ h rfl rfl
  period s h := htables s _ h rfl rfl
  clock s h _ := htables s _ h rfl rfl
  line s _ _ _ _ h := htables s _ h rfl rfl
  arrival s a t h _ _ _ ht := by
    obtain ⟨cause, rfl⟩ | rfl | ⟨w, p, rfl⟩ := takeArrival_cases ht
    all_goals exact htables s _ h (by simp) (by simp)
  hold s _ := htables (State.released s.straps s.sl.linkIn) _ (hreleased _ _) rfl rfl
  release s p l _ _ := htables (State.released (sampleStraps p) l) _ (hreleased _ _) rfl rfl
  setupDone s _ _ h _ _ := htables s _ h rfl rfl
  wait s h _ _ := htables s _ h rfl rfl
  countSetup s h _ _ := htables s _ h rfl rfl
  countRecovery s h _ _ := htables s _ h rfl rfl
  countStrobe s h _ _ := htables s _ h rfl rfl
  countWait s h _ _ := htables s _ h rfl rfl
  beatDone s _ _ _ _ h _ _ := htables s _ h (by simp) (by simp)
  beatFailed s _ _ h _ _ := htables s _ h (by simp) (by simp)
  recovery s h _ := htables s _ h (by simp) (by simp)
  address s _ h _ := htables s _ h (by simp) (by simp)
  linkBreak s h _ := htables s _ h (by simp) (by simp)
  framingError s h _ := htables s _ h (by simp) (by simp)
  gapTimeout s h _ := htables s _ h (by simp) (by simp)
  turnaroundEnd s h _ := htables s _ h (by simp) (by simp)
  nextBit s _ _ _ h _ _ := htables s _ h rfl rfl
  responseFrameEnd s _ _ _ h _ := htables s _ h (by simp) (by simp)
  ignored s h _ _ := htables s _ h rfl rfl
  opcode s _ _ h _ _ _ := htables s _ h rfl rfl
  lengthFrame s _ _ _ h _ _ _ _ _ := htables s _ h rfl rfl
  payloadFrame s _ _ _ _ h _ _ _ _ _ := htables s _ h rfl rfl
  badLength s _ _ h _ _ _ := htables s _ h (by simp) (by simp)
  badCheck s _ _ h _ _ _ := htables s _ h (by simp) (by simp)
  service s _ c _ h _ _ _ _ _ :=
    carryOut_keeps (P := P) (htables s _ h rfl rfl) (fun p u hu => hservice c.opcode p u hu)
      fun st p u hu => htables u _ hu (by simp) (by simp)

/-- All that an execution from s to t can do to the table sets (R41 to R44, R51). -/
inductive TableChange (s t : State) : Prop where
  | unchanged (hlive : t.live = s.live) (hstaged : t.staged = s.staged)
  | window (i : Fin 16) (w : WindowEntry) (hw : w.inRange) (hlive : t.live = s.live)
      (hstaged : t.staged = s.staged.setWindow i w)
  | profile (i : Fin 8) (f : Profile) (hf : f.inRange = true) (hlive : t.live = s.live)
      (hstaged : t.staged = s.staged.setProfile i f)
  | trigger (i : Fin 4) (g : Trigger) (hlive : t.live = s.live) (hstaged : t.staged = s.staged.setTrigger i g)
  | globals (g : Globals) (hlive : t.live = s.live) (hstaged : t.staged = s.staged.setGlobals g)
  | copied (hlive : t.live = s.live) (hstaged : t.staged = s.live)
  | applied (hvalid : validate s.staged = none) (hlive : t.live = s.staged) (hstaged : t.staged = s.staged)

/-- The table change of an execution, whatever its payload and state. -/
def ChangesTables (run : List Byte → State → ServiceResult) : Prop :=
  ∀ p s, TableChange s (run p s).state

theorem serviceWriteWindow_tables : ChangesTables serviceWriteWindow := by
  intro p s
  unfold serviceWriteWindow refuseCommand
  repeat' split
  case h_2 i _ _ w hw => exact .window i w (decodeWindow_inRange hw) rfl rfl
  all_goals exact .unchanged rfl rfl

theorem serviceWriteProfile_tables : ChangesTables serviceWriteProfile := by
  intro p s
  unfold serviceWriteProfile refuseCommand
  repeat' split
  case h_2 i _ _ f hf => exact .profile i f (decodeProfile_inRange hf) rfl rfl
  all_goals exact .unchanged rfl rfl

theorem serviceWriteTrigger_tables : ChangesTables serviceWriteTrigger := by
  intro p s
  unfold serviceWriteTrigger refuseCommand
  repeat' split
  case h_2 i _ _ g _ => exact .trigger i g rfl rfl
  all_goals exact .unchanged rfl rfl

theorem serviceWriteGlobals_tables : ChangesTables serviceWriteGlobals := by
  intro p s
  unfold serviceWriteGlobals refuseCommand
  repeat' split
  case h_2 g _ => exact .globals g rfl rfl
  all_goals exact .unchanged rfl rfl

theorem serviceCopy_tables : ChangesTables serviceCopy := by
  intro p s
  unfold serviceCopy refuseCommand
  split
  · exact .copied rfl rfl
  · exact .unchanged rfl rfl

theorem serviceApply_tables : ChangesTables serviceApply := by
  intro p s
  unfold serviceApply refuseCommand
  split
  · split
    · rename_i hvalid
      exact .applied hvalid rfl rfl
    · exact .unchanged rfl rfl
  · exact .unchanged rfl rfl

/-- Every execution but the writes, COPY_LIVE_TO_STAGED and APPLY_TABLE leaves both sets. -/
theorem serviceOf_tables (op : Byte) : ChangesTables (serviceOf op) := by
  refine serviceOf_keeps (fun _ _ => .unchanged rfl rfl) ?_ op
  simp only [serviceTable, List.forall_mem_cons, List.not_mem_nil, false_implies, implies_true, and_true,
    serviceWriteWindow_tables, serviceWriteProfile_tables, serviceWriteTrigger_tables, serviceWriteGlobals_tables,
    serviceCopy_tables, serviceApply_tables, true_and]
  and_intros
  all_goals
    intro p s
    simp only [serviceIdentify, serviceReadWindow, serviceReadProfile, serviceReadTrigger, serviceReadGlobals,
      serviceReadBank, serviceSetBank, serviceCancel, serviceReadFaults, serviceRemoveFaults, serviceSetAlert,
      serviceReadQueue, serviceDrain, serviceLinkStatus, setBank, refuseCommand]
    repeat' split
  all_goals exact .unchanged rfl rfl

/-! ### Ranges (R19, R35) -/

theorem TableSet.inRange.setWindow {t : TableSet} (h : t.inRange) (i : Fin 16) {w : WindowEntry} (hw : w.inRange) :
    (t.setWindow i w).inRange := by
  obtain ⟨hwindows, hprofiles⟩ := h
  refine ⟨fun j => ?_, hprofiles⟩
  simp only [TableSet.setWindow, Fin.getElem_fin, Vector.getElem_set]
  split
  · exact hw
  · exact hwindows j

theorem TableSet.inRange.setProfile {t : TableSet} (h : t.inRange) (i : Fin 8) {f : Profile} (hf : f.inRange = true) :
    (t.setProfile i f).inRange := by
  obtain ⟨hwindows, hprofiles⟩ := h
  refine ⟨hwindows, fun j => ?_⟩
  simp only [TableSet.setProfile, Fin.getElem_fin, Vector.getElem_set]
  split
  · exact hf
  · exact hprofiles j

/-! ### The invariant -/

/-- R19, R35, R40, R51: both sets are in range and the live set passes validation. -/
def TablesSound (s : State) : Prop :=
  TablesInRange s ∧ LiveValid s

theorem TablesSound.of_tables {s t : State} (h : TablesSound s) (hlive : t.live = s.live)
    (hstaged : t.staged = s.staged) : TablesSound t := by
  unfold TablesSound TablesInRange LiveValid
  rw [hlive, hstaged]
  exact h

theorem TablesSound.released (st : Straps) (high : Bool) : TablesSound (State.released st high) :=
  ⟨⟨bootSet_inRange _, bootSet_inRange _⟩, bootSet_valid _⟩

/-- A change of the staged set alone keeps the invariant if the new staged set is in range. -/
theorem TablesSound.of_staged {s t : State} (h : TablesSound s) (hlive : t.live = s.live)
    (hstaged : t.staged.inRange) : TablesSound t := by
  obtain ⟨⟨hrange, -⟩, hvalid⟩ := h
  unfold TablesSound TablesInRange LiveValid
  rw [hlive]
  exact ⟨⟨hrange, hstaged⟩, hvalid⟩

theorem TablesSound.change {s t : State} (h : TablesSound s) (ht : TableChange s t) : TablesSound t := by
  obtain ⟨⟨hliveRange, hstagedRange⟩, -⟩ := id h
  cases ht with
  | unchanged hlive hstaged => exact h.of_tables hlive hstaged
  | window i w hw hlive hstaged => exact h.of_staged hlive (hstaged ▸ hstagedRange.setWindow i hw)
  | profile i f hf hlive hstaged => exact h.of_staged hlive (hstaged ▸ hstagedRange.setProfile i hf)
  | trigger i g hlive hstaged => exact h.of_staged hlive (hstaged ▸ hstagedRange)
  | globals g hlive hstaged => exact h.of_staged hlive (hstaged ▸ hstagedRange)
  | copied hlive hstaged => exact h.of_staged hlive (hstaged ▸ hliveRange)
  | applied hvalid hlive hstaged =>
    unfold TablesSound TablesInRange LiveValid
    rw [hlive, hstaged]
    exact ⟨⟨hstagedRange, hstagedRange⟩, hvalid⟩

theorem tablesSound_kept : KeptByEvents TablesSound :=
  keptByEvents_of_tables (fun _ _ h => h.of_tables) TablesSound.released fun op p s h =>
    h.change (serviceOf_tables op p s)

/-- Settles O54: of all events only RESET and the service commands touch the sets, and each of their changes is
sound. -/
theorem tableSetsStayValid : Obligations.TableSetsStayValid :=
  fun _ _ hrange hvalid ht => tablesSound_kept.step ⟨hrange, hvalid⟩ ht

end Sys2Proof.Machine
end

section
/-! PROOFS. Bank states at every event: exactly the valid BANKED live windows have one, and it is sound (R56, R67). -/
namespace Sys2Proof.Machine

/-- The bank states are judged by the live set, and by nothing else of the state. -/
theorem BanksSound.of_banks {s t : State} (h : BanksSound s) (hlive : t.live = s.live) (hbanks : t.banks = s.banks) :
    BanksSound t := by
  unfold BanksSound
  rw [hlive, hbanks]
  exact h

/-! ### Arrivals -/

/-- R66: an arrival up to its answer, with its commits made. -/
theorem BanksSound.arrived {s : State} (h : BanksSound s) (a : Access) : BanksSound (arrived s a) :=
  (h.atArrival a (decodeAccess s.live a)).of_banks rfl rfl

/-- R61: the captures of a whole WRITE, one by one. -/
theorem BanksSound.captureWrite {s : State} (h : BanksSound s) (a : Access) : BanksSound (captureWrite a s) :=
  captureWrite_keeps a (fun _ c j ht => ht.captureOne a c j) s h

theorem BanksSound.arrival {s t : State} {a : Access} (h : BanksSound s) (ht : takeArrival a s = .next t) :
    BanksSound t := by
  obtain ⟨cause, rfl⟩ | rfl | ⟨w, p, rfl⟩ := takeArrival_cases ht
  · exact (h.arrived a).of_banks (by simp) (by simp)
  · exact (h.arrived a).of_banks (by simp) (by simp)
  · exact ((h.arrived a).captureWrite a).of_banks (by simp) (by simp)

/-! ### Service commands -/

/-- The execution keeps the bank states sound, whatever its payload. -/
def KeepsBanks (run : List Byte → State → ServiceResult) : Prop :=
  ∀ p s, BanksSound s → BanksSound (run p s).state

/-- R52: APPLY_TABLE gives the banks anew, for a set that passes validation. -/
theorem serviceApply_banks : KeepsBanks serviceApply := by
  intro p s h
  unfold serviceApply refuseCommand
  split
  · split
    · rename_i hvalid
      exact BanksSound.applied hvalid
    · exact h
  · exact h

/-- R74, R75: SET_BANK sets a bank below the bank count, now or by the window's policy. -/
theorem BanksSound.setBank {s : State} (h : BanksSound s) {w : Fin 16} {bank : Byte}
    (hb : bank.toNat < s.live.windows[w].bankCount) (now : Bool) : BanksSound (setBank w bank now s) := by
  unfold Machine.setBank
  split
  · exact h.update w _ fun _ _ => BankState.sound_setNow hb
  · exact h.update w _ fun _ hk => BankState.sound_setBy hk hb

theorem serviceSetBank_banks : KeepsBanks serviceSetBank := by
  intro p s h
  unfold serviceSetBank refuseCommand
  repeat' split
  case isTrue hb => exact h.setBank hb _
  all_goals exact h

theorem serviceCancel_banks : KeepsBanks serviceCancel := by
  intro p s h
  unfold serviceCancel refuseCommand
  repeat' split
  case isTrue => exact h.update _ _ fun _ hk => BankState.sound_cancel hk
  all_goals exact h

/-- Every execution but APPLY_TABLE, SET_BANK and CANCEL_PENDING leaves the live set and the bank states. -/
theorem serviceOf_banks (op : Byte) : KeepsBanks (serviceOf op) := by
  refine serviceOf_keeps (fun _ _ h => h) ?_ op
  simp only [serviceTable, List.forall_mem_cons, List.not_mem_nil, false_implies, implies_true, and_true,
    serviceApply_banks, serviceSetBank_banks, serviceCancel_banks, true_and]
  and_intros
  all_goals
    intro p s h
    refine h.of_banks ?_ ?_
  all_goals
    simp only [serviceIdentify, serviceReadWindow, serviceWriteWindow, serviceReadProfile, serviceWriteProfile,
      serviceReadTrigger, serviceWriteTrigger, serviceReadGlobals, serviceWriteGlobals, serviceCopy, serviceReadBank,
      serviceReadFaults, serviceRemoveFaults, serviceSetAlert, serviceReadQueue, serviceDrain, serviceLinkStatus,
      refuseCommand]
    repeat' split
  all_goals rfl

/-! ### The invariant -/

/-- R57, R59: outside arrivals, RESET and the service commands no event touches the live set or the bank states. -/
theorem banksSound_kept : KeptByEvents BanksSound where
  pending _ _ h := h
  period _ h := h
  clock _ h _ := h
  line _ _ _ _ _ h := h
  arrival _ _ _ h _ _ _ ht := h.arrival ht
  hold s _ := banksSound_released s.straps s.sl.linkIn
  release _ p l _ _ := banksSound_released (sampleStraps p) l
  setupDone _ _ _ h _ _ := h
  wait _ h _ _ := h
  countSetup _ h _ _ := h
  countRecovery _ h _ _ := h
  countStrobe _ h _ _ := h
  countWait _ h _ _ := h
  beatDone _ _ _ _ _ h _ _ := h.of_banks (by simp) (by simp)
  beatFailed _ _ _ h _ _ := h.of_banks (by simp) (by simp)
  recovery _ h _ := h.of_banks (by simp) (by simp)
  address _ _ h _ := h.of_banks (by simp) (by simp)
  linkBreak _ h _ := h.of_banks (by simp) (by simp)
  framingError _ h _ := h
  gapTimeout _ h _ := h
  turnaroundEnd _ h _ := h
  nextBit _ _ _ _ h _ _ := h
  responseFrameEnd _ _ _ _ h _ := h.of_banks (by simp) (by simp)
  ignored _ h _ _ := h
  opcode _ _ _ h _ _ _ := h
  lengthFrame _ _ _ _ h _ _ _ _ _ := h
  payloadFrame _ _ _ _ _ h _ _ _ _ _ := h
  badLength _ _ _ h _ _ _ := h.of_banks (by simp) (by simp)
  badCheck _ _ _ h _ _ _ := h.of_banks (by simp) (by simp)
  service _ sel c _ h _ _ _ _ _ :=
    carryOut_keeps (P := BanksSound) (show BanksSound (startExecution sel _ _) from h)
      (fun p u hu => serviceOf_banks c.opcode p u hu) fun _ _ _ hu => hu.of_banks (by simp) (by simp)

/-- Settles O55: every event keeps it, by the one case split over a step. -/
theorem bankStatesStaySound : Obligations.BankStatesStaySound :=
  fun _ _ h ht => banksSound_kept.step h ht

end Sys2Proof.Machine
end

section
/-! PROOFS. A service command whose execution ends at its check frame, and the staged writes (R41, R169, R170, R172,
R181, R182). -/
namespace Sys2Proof.Machine

/-! ### The check frame of a collected command -/

/-- The buffer that holds the command op with payload p before its check frame (R166). -/
def CommandBuffer.collected (op : Byte) (p : List Byte) : CommandBuffer :=
  { opcode := op, length := some (BitVec.ofNat 8 p.length), payload := p,
    sum := op + BitVec.ofNat 8 p.length + byteSum p }

/-- R169: the state in which the command op with payload p is executed, its check taken into the sum. -/
def State.executing (s : State) (sel : Selection) (op : Byte) (p : List Byte) : State :=
  startExecution sel
    ((CommandBuffer.collected op p).addCheck (CommandBuffer.collected op p).acceptedCheck) (frameEnded true s)

/-- A command with its whole payload in the buffer waits for its check frame. -/
theorem Collected.awaitingCheck {s : State} {sel : Selection} {op : Byte} {p : List Byte}
    (h : Collected s sel op p) : awaitingCheck s.sl = some (sel, .collected op p) := by
  obtain ⟨-, hreceiver, hlen, hcommand⟩ := h
  have hcomplete : (CommandBuffer.collected op p).complete = true := by
    have hn : (BitVec.ofNat 8 p.length).toNat = p.length := toNat_ofNat_byte (by omega)
    exact decide_eq_true (Nat.le_of_eq hn)
  simp only [Machine.awaitingCheck, hreceiver, hcommand]
  exact if_pos hcomplete

/-- R167, R169: the row of a collected command carries it out. -/
theorem serviceRow_collected {s : State} {sel : Selection} {op : Byte} {p : List Byte} {isRow : CommandBuffer → Bool}
    (h : Collected s sel op p) (hrow : isRow (.collected op p) = true) (run : List Byte → State → ServiceResult) :
    serviceRow isRow run s =
      .next (carryOut run sel ((CommandBuffer.collected op p).addCheck (CommandBuffer.collected op p).acceptedCheck)
        (frameEnded true s)) := by
  obtain ⟨⟨hheld, hline⟩, -⟩ := id h
  simp only [serviceRow, hheld, hline, h.awaitingCheck, hrow, Bool.false_eq_true, if_false, if_true]

/-- R170, R172: the link when an execution that left it alone ends at its check frame. The turnaround begins with that
frame, so it has not passed. -/
theorem finish_executing (s : State) (sel : Selection) (op : Byte) (p : List Byte) (st : Straps) (status : Status)
    (answer : List Byte) :
    (s.executing sel op p).sl.finish st status answer = s.sl.answered sel status answer := by
  have hturn : ¬ turnaroundLimit st ≤ 0 := by
    have : 0 < 2 ^ st.rateValue := Nat.two_pow_pos _
    unfold turnaroundLimit linkDivisor
    omega
  cases sel with
  | addressed =>
    show ServiceLink.respond (s.executing .addressed op p).sl st status answer = _
    unfold ServiceLink.respond
    rw [show (s.executing .addressed op p).sl.sinceCommand = 0 from rfl, if_neg hturn]
    rfl
  | broadcast => rfl

theorem carryOut_ended {run : List Byte → State → ServiceResult} {sel : Selection} {c : CommandBuffer} {s t : State}
    {status : Status} {answer : List Byte} (h : run c.payload (startExecution sel c s) = .ended t status answer) :
    carryOut run sel c s = finishExecution status answer t := by
  unfold carryOut
  rw [h]

/-- R169, R170, R172: a row whose execution ends in t and leaves the link alone answers at once. -/
theorem serviceRow_ended {s t : State} {sel : Selection} {op : Byte} {p : List Byte} {isRow : CommandBuffer → Bool}
    {run : List Byte → State → ServiceResult} {status : Status} {answer : List Byte}
    (h : Collected s sel op p) (hrow : isRow (.collected op p) = true)
    (hrun : run p (s.executing sel op p) = .ended t status answer) (hsl : t.sl = (s.executing sel op p).sl) :
    serviceRow isRow run s = .next (t.setSl (s.sl.answered sel status answer)) := by
  rw [serviceRow_collected h hrow, carryOut_ended hrun, finishExecution, hsl, finish_executing]

/-- R176: a row that refuses its command changes nothing but the link's answer. -/
theorem serviceRow_refused {s : State} {sel : Selection} {op : Byte} {p : List Byte} {isRow : CommandBuffer → Bool}
    {run : List Byte → State → ServiceResult} {status : Status} (h : Collected s sel op p)
    (hrow : isRow (.collected op p) = true)
    (hrun : run p (s.executing sel op p) = refuseCommand status (s.executing sel op p)) :
    serviceRow isRow run s = .next (s.answered sel status []) :=
  serviceRow_ended (t := s.executing sel op p) h hrow hrun rfl

/-- The row of an opcode knows the commands of that opcode (R201). -/
theorem hasOpcode_collected (op : Byte) (p : List Byte) : hasOpcode op (.collected op p) = true :=
  beq_self_eq_true op

/-! ### Indices (R41, R176) -/

theorem indexWithin_of_eq {n : Nat} {b : Byte} {i : Fin n} (h : b.toNat = i.val) : indexWithin n b = some i := by
  have hlt : b.toNat < n := h ▸ i.isLt
  rw [indexWithin, dif_pos hlt]
  exact congrArg some (Fin.ext h)

theorem indexWithin_of_le {n : Nat} {b : Byte} (h : n ≤ b.toNat) : indexWithin n b = none :=
  dif_neg (Nat.not_lt.mpr h)

/-! ### Staged writes (R41, R181, R182) -/

/-- R41: the execution of a staged write of an entry at an index below n: the index is judged, then the entry's fields,
and the entry is stored. -/
def stagedWrite {α : Type} (n : Nat) (decode : List Byte → Option α) (store : TableSet → Fin n → α → TableSet)
    (index : Byte) (entry : List Byte) (s : State) : ServiceResult :=
  (indexWithin n index).elim (refuseCommand .badIndex s) fun i =>
    (decode entry).elim (refuseCommand .badValue s) fun x => .ended (s.setStaged (store s.staged i x)) .ok []

theorem serviceWriteWindow_cons {entry : List Byte} (hlen : entry.length = 16) (index : Byte) (s : State) :
    serviceWriteWindow (index :: entry) s = stagedWrite 16 decodeWindow TableSet.setWindow index entry s := by
  simp only [serviceWriteWindow, stagedWrite, List.length_cons, hlen, if_true]
  cases indexWithin 16 index with
  | none => rfl
  | some i =>
    cases decodeWindow entry
    all_goals rfl

theorem serviceWriteProfile_cons {entry : List Byte} (hlen : entry.length = 6) (index : Byte) (s : State) :
    serviceWriteProfile (index :: entry) s = stagedWrite 8 decodeProfile TableSet.setProfile index entry s := by
  simp only [serviceWriteProfile, stagedWrite, List.length_cons, hlen, if_true]
  cases indexWithin 8 index with
  | none => rfl
  | some i =>
    cases decodeProfile entry
    all_goals rfl

theorem serviceWriteTrigger_cons {entry : List Byte} (hlen : entry.length = 5) (index : Byte) (s : State) :
    serviceWriteTrigger (index :: entry) s = stagedWrite 4 decodeTrigger TableSet.setTrigger index entry s := by
  simp only [serviceWriteTrigger, stagedWrite, List.length_cons, hlen, if_true]
  cases indexWithin 4 index with
  | none => rfl
  | some i =>
    cases decodeTrigger entry
    all_goals rfl

/-- R41, R181, R182: what the row of a staged write does with a collected command, by its index and its entry. -/
theorem serviceRow_stagedWrite {α : Type} {n : Nat} {decode : List Byte → Option α}
    {store : TableSet → Fin n → α → TableSet} {run : List Byte → State → ServiceResult} {s : State} {sel : Selection}
    {op index : Byte} {entry : List Byte} (h : Collected s sel op (index :: entry))
    (hrun : ∀ u, run (index :: entry) u = stagedWrite n decode store index entry u) :
    (n ≤ index.toNat → serviceRow (hasOpcode op) run s = .next (s.answered sel .badIndex [])) ∧
    ∀ i : Fin n, index.toNat = i.val →
      (decode entry = none → serviceRow (hasOpcode op) run s = .next (s.answered sel .badValue [])) ∧
      (∀ x, decode entry = some x → serviceRow (hasOpcode op) run s =
        .next { s.answered sel .ok [] with staged := store s.staged i x }) := by
  have hrow := hasOpcode_collected op (index :: entry)
  refine ⟨fun hi => serviceRow_refused h hrow ?_, fun i hi => ⟨fun hx => serviceRow_refused h hrow ?_,
    fun x hx => serviceRow_ended (t := (s.executing sel op (index :: entry)).setStaged (store s.staged i x)) h hrow ?_
      rfl⟩⟩
  · rw [hrun, stagedWrite, indexWithin_of_le hi]
    rfl
  · rw [hrun, stagedWrite, indexWithin_of_eq hi, hx]
    rfl
  · rw [hrun, stagedWrite, indexWithin_of_eq hi, hx]
    rfl

theorem serviceWriteGlobals_badValue {p : List Byte} (hlen : p.length = 2) (hx : decodeGlobals p = none) (s : State) :
    serviceWriteGlobals p s = refuseCommand .badValue s := by
  simp only [serviceWriteGlobals, hlen, hx, if_true]

theorem serviceWriteGlobals_stored {p : List Byte} (hlen : p.length = 2) {g : Globals} (hx : decodeGlobals p = some g)
    (s : State) : serviceWriteGlobals p s = .ended (s.setStaged (s.staged.setGlobals g)) .ok [] := by
  simp only [serviceWriteGlobals, hlen, hx, if_true]

/-- Settles O36: three writes are one execution at three formats; the globals have no index. -/
theorem writesReplaceOneStagedEntry : Obligations.WritesReplaceOneStagedEntry := by
  refine ⟨fun s sel index entry hlen h => ?_, fun s sel index entry hlen h => ?_, fun s sel index entry hlen h => ?_,
    fun s sel entry hlen h => ⟨fun hx => ?_, fun g hx => ?_⟩⟩
  · exact serviceRow_stagedWrite h (serviceWriteWindow_cons hlen index)
  · exact serviceRow_stagedWrite h (serviceWriteProfile_cons hlen index)
  · exact serviceRow_stagedWrite h (serviceWriteTrigger_cons hlen index)
  · exact serviceRow_refused h (hasOpcode_collected _ _) (serviceWriteGlobals_badValue hlen hx _)
  · exact serviceRow_ended h (hasOpcode_collected _ _) (serviceWriteGlobals_stored hlen hx _) rfl

end Sys2Proof.Machine
end

section
/-! PROOFS. Which field values of an offered entry are out of range (R42, R43, R181, R182). -/
namespace Sys2Proof.Machine

/-! ### Codes that stand for nothing (R198, R199) -/

theorem policyOf_eq_none_iff (b : Byte) : policyOf b = none ↔ 2 < b.toNat := by
  unfold policyOf
  match b.toNat with
  | 0 => decide
  | 1 => decide
  | 2 => decide
  | n + 3 => exact ⟨fun _ => Nat.le_add_left 3 n, fun _ => rfl⟩

theorem readyModeOf_eq_none_iff (b : Byte) : readyModeOf b = none ↔ 1 < b.toNat := by
  unfold readyModeOf
  match b.toNat with
  | 0 => decide
  | 1 => decide
  | n + 2 => exact ⟨fun _ => Nat.le_add_left 2 n, fun _ => rfl⟩

theorem missPolicyOf_eq_none_iff (b : Byte) : missPolicyOf b = none ↔ 1 < b.toNat := by
  unfold missPolicyOf
  match b.toNat with
  | 0 => decide
  | 1 => decide
  | n + 2 => exact ⟨fun _ => Nat.le_add_left 2 n, fun _ => rfl⟩

theorem readYesNo_eq_none_iff (b : Byte) : readYesNo b = none ↔ 1 < b.toNat := by
  unfold readYesNo
  match b.toNat with
  | 0 => decide
  | 1 => decide
  | n + 2 => exact ⟨fun _ => Nat.le_add_left 2 n, fun _ => rfl⟩

/-! ### Windows -/

/-- R42, R181: the policy byte of a BANKED entry alone is judged. -/
theorem offeredPolicy_eq_none_iff (bytes : List Byte) (code : Byte) :
    offeredPolicy (offeredKind bytes) code = none ↔ (bytes.getD 0 0).getLsbD 1 = true ∧ 2 < code.toNat := by
  cases h : (bytes.getD 0 0).getLsbD 1 with
  | false => simp [offeredKind_plain h, offeredPolicy]
  | true => simpa [offeredKind_banked h, offeredPolicy] using policyOf_eq_none_iff code

theorem decodeWindow_eq_none_iff {bytes : List Byte} (hlen : bytes.length = 16) :
    decodeWindow bytes = none ↔
      ¬ OfferedInRange bytes ∨ offeredPolicy (offeredKind bytes) (bytes.getD 12 0) = none := by
  have hsome : (∃ w, decodeWindow bytes = some w) ↔
      OfferedInRange bytes ∧ ∃ pol, offeredPolicy (offeredKind bytes) (bytes.getD 12 0) = some pol := by
    simp only [decodeWindow_eq_some_iff]
    constructor
    · rintro ⟨_, -, hrange, pol, hpol, -⟩
      exact ⟨hrange, pol, hpol⟩
    · rintro ⟨hrange, pol, hpol⟩
      exact ⟨_, hlen, hrange, pol, hpol, rfl⟩
  rw [← Option.not_isSome_iff_eq_none, ← Option.not_isSome_iff_eq_none, Option.isSome_iff_exists,
    Option.isSome_iff_exists, hsome, Classical.not_and_iff_not_or_not]

/-- R198: a physical base of four bytes lies in 26 bits exactly if its top byte has two. -/
theorem leValue_four_le_iff (p0 p1 p2 p3 : Byte) : leValue [p0, p1, p2, p3] ≤ 0x3FFFFFF ↔ p3.toNat ≤ 3 := by
  have h0 := p0.isLt
  have h1 := p1.isLt
  have h2 := p2.isLt
  simp only [leValue]
  omega

/-! ### Profiles, triggers, globals -/

theorem decodeProfile_eq_none_iff (setup strobe mode l0 l1 recovery : Byte) :
    decodeProfile [setup, strobe, mode, l0, l1, recovery] = none ↔
      1 < mode.toNat ∨ ¬ (setup.toNat ≤ 3 ∧ 1 ≤ strobe.toNat ∧ strobe.toNat ≤ 16 ∧ 1 ≤ leValue [l0, l1] ∧
        leValue [l0, l1] ≤ 1024 ∧ strobe.toNat ≤ leValue [l0, l1] ∧ recovery.toNat ≤ 7) := by
  rw [← readyModeOf_eq_none_iff]
  cases hm : readyModeOf mode with
  | none => simp [decodeProfile, hm]
  | some m => simp [decodeProfile, hm, Profile.inRange]

theorem decodeTrigger_eq_none_iff (enabled a0 a1 a2 target : Byte) :
    decodeTrigger [enabled, a0, a1, a2, target] = none ↔ 1 < enabled.toNat ∨ 15 < target.toNat := by
  rw [← readYesNo_eq_none_iff]
  cases he : readYesNo enabled with
  | none => simp [decodeTrigger, he]
  | some e => simp [decodeTrigger, he]

theorem decodeGlobals_eq_none_iff (policy fill : Byte) : decodeGlobals [policy, fill] = none ↔ 1 < policy.toNat := by
  rw [← missPolicyOf_eq_none_iff]
  cases hm : missPolicyOf policy with
  | none => simp [decodeGlobals, hm]
  | some m => simp [decodeGlobals, hm]

/-- Settles O37, format by format. -/
theorem offeredFieldsAreJudged : Obligations.OfferedFieldsAreJudged := by
  refine ⟨fun a e sp l0 l1 l2 p0 p1 p2 p3 count initial policy o0 o1 o2 => ?_,
    fun setup strobe mode l0 l1 recovery => ?_, decodeTrigger_eq_none_iff, decodeGlobals_eq_none_iff⟩
  · rw [decodeWindow_eq_none_iff rfl, offeredPolicy_eq_none_iff]
    simp only [OfferedInRange, List.getD_cons_zero, List.getD_cons_succ, leValue_four_le_iff,
      Classical.not_and_iff_not_or_not, Nat.not_le, Bool.not_eq_false, or_assoc]
  · rw [decodeProfile_eq_none_iff]
    simp only [leValue]
    omega

end Sys2Proof.Machine
end

section
/-! PROOFS. Validation and APPLY_TABLE (R45 to R53, R184, R202). -/
namespace Sys2Proof.Machine

/-! ### The walk (R45) -/

theorem windowIndices_eq_finRange : windowIndices = List.finRange 16 := by
  decide

theorem triggerIndices_eq_finRange : triggerIndices = List.finRange 4 := by
  decide

/-- The indices are listed in ascending order: those before i are those below it. -/
theorem mem_before_iff_lt {n : Nat} {before after : List (Fin n)} {i : Fin n}
    (h : List.finRange n = before ++ i :: after) (j : Fin n) : j ∈ before ↔ j < i := by
  have hsorted := List.pairwise_lt_finRange n
  rw [h, List.pairwise_append] at hsorted
  obtain ⟨-, hafter, hbefore⟩ := hsorted
  refine ⟨fun hj => hbefore j hj i List.mem_cons_self, fun hlt => ?_⟩
  have hmem : j ∈ before ++ i :: after := h ▸ List.mem_finRange j
  obtain hj | hj := List.mem_append.mp hmem
  · exact hj
  · obtain rfl | hj := List.mem_cons.mp hj
    · exact absurd hlt (Fin.lt_irrefl j)
    · exact absurd (List.rel_of_pairwise_cons hafter hj) (Fin.lt_asymm hlt)

theorem findSome?_finRange_eq_some_iff {α : Type} {n : Nat} {f : Fin n → Option α} {b : α} :
    (List.finRange n).findSome? f = some b ↔ ∃ i, f i = some b ∧ ∀ j, j < i → f j = none := by
  rw [List.findSome?_eq_some_iff]
  constructor
  · rintro ⟨before, i, after, hsplit, hi, hbelow⟩
    exact ⟨i, hi, fun j hj => hbelow j ((mem_before_iff_lt hsplit j).mpr hj)⟩
  · rintro ⟨i, hi, hbelow⟩
    obtain ⟨before, after, hsplit⟩ := List.append_of_mem (List.mem_finRange i)
    exact ⟨before, i, after, hsplit, hi, fun j hj => hbelow j ((mem_before_iff_lt hsplit j).mp hj)⟩

/-- The first failure of a walk over n items, named by its item. -/
def firstFailure {n : Nat} (check : Fin n → Option TableReason) (item : Fin n → TableItem) :
    Option (TableReason × TableItem) :=
  (List.finRange n).findSome? fun i => (check i).map fun r => (r, item i)

theorem firstFailure_eq_some_iff {n : Nat} {check : Fin n → Option TableReason} {item : Fin n → TableItem}
    {r : TableReason} {x : TableItem} :
    firstFailure check item = some (r, x) ↔ ∃ i, item i = x ∧ check i = some r ∧ ∀ j, j < i → check j = none := by
  simp only [firstFailure, findSome?_finRange_eq_some_iff, Option.map_eq_some_iff, Option.map_eq_none_iff,
    Prod.mk.injEq]
  refine exists_congr fun i => ⟨?_, ?_⟩
  · rintro ⟨⟨r', hr, rfl, hx⟩, hbelow⟩
    exact ⟨hx, hr, hbelow⟩
  · rintro ⟨hx, hr, hbelow⟩
    exact ⟨⟨r, hr, rfl, hx⟩, hbelow⟩

theorem firstFailure_eq_none_iff {n : Nat} {check : Fin n → Option TableReason} {item : Fin n → TableItem} :
    firstFailure check item = none ↔ ∀ i, check i = none := by
  simp only [firstFailure, List.findSome?_eq_none_iff, List.mem_finRange, true_implies, Option.map_eq_none_iff]

/-- R45: the walk goes through the windows and then through the triggers. -/
theorem validate_eq_or (t : TableSet) :
    validate t = (firstFailure (fun i => windowFault t.windows[i]) .window).or
      (firstFailure (triggerFault t) .trigger) := by
  simp only [validate, firstFailure, ← windowIndices_eq_finRange, ← triggerIndices_eq_finRange]
  split
  all_goals rename_i hwindows
  all_goals rw [hwindows]
  all_goals rfl

theorem validate_eq_window_iff {t : TableSet} {r : TableReason} {i : Fin 16} :
    validate t = some (r, .window i) ↔
      windowFault t.windows[i] = some r ∧ ∀ j : Fin 16, j < i → windowFault t.windows[j] = none := by
  simp only [validate_eq_or, Option.or_eq_some_iff, firstFailure_eq_some_iff, TableItem.window.injEq, reduceCtorEq,
    false_and, exists_false, and_false, or_false, exists_eq_left]

theorem validate_eq_trigger_iff {t : TableSet} {r : TableReason} {i : Fin 4} :
    validate t = some (r, .trigger i) ↔
      (∀ j : Fin 16, windowFault t.windows[j] = none) ∧ triggerFault t i = some r ∧
        ∀ j : Fin 4, j < i → triggerFault t j = none := by
  simp only [validate_eq_or, Option.or_eq_some_iff, firstFailure_eq_some_iff, firstFailure_eq_none_iff,
    TableItem.trigger.injEq, reduceCtorEq, false_and, exists_false, false_or, exists_eq_left]

/-! ### The checks of a window (R46, R47) -/

theorem physEnd_le_iff_passes (w : WindowEntry) : w.physEnd ≤ 2 ^ 26 ↔ w.passesPhysicalTop := by
  unfold WindowEntry.physEnd WindowEntry.passesPhysicalTop WindowEntry.size
  obtain hk | hk := windowKind_cases w.kind
  all_goals simp [hk]

/-- R45: a window with valid no is passed over. -/
theorem windowFault_invalid {w : WindowEntry} (h : w.valid = false) : windowFault w = none := by
  rw [windowFault, h]
  rfl

open Classical in
/-- R46, R47: the checks of a valid window in ascending reason code. -/
theorem windowFault_eq_of_valid {w : WindowEntry} (h : w.valid = true) :
    windowFault w =
      if ¬ w.passesLogicalAlign then some .logicalAlign
      else if ¬ w.passesPhysicalAlign then some .physicalAlign
      else if ¬ w.passesPhysicalTop then some .physicalTop
      else if ¬ w.passesInitialBank then some .initialBank
      else if ¬ w.passesLandingRange then some .landingRange
      else none := by
  have htop : 2 ^ 26 < w.physEnd ↔ ¬ w.passesPhysicalTop := by
    rw [← physEnd_le_iff_passes, Nat.not_le]
  simp only [windowFault, h, if_true, htop, WindowEntry.passesLogicalAlign, WindowEntry.passesPhysicalAlign,
    WindowEntry.passesInitialBank, WindowEntry.passesLandingRange, WindowEntry.size, Classical.not_imp, Nat.not_lt]
  rfl

/-! ### The checks of a trigger (R48) -/

theorem isBanked_iff_passesTarget (t : TableSet) (i : Fin 4) :
    t.windows[t.triggers[i].target].isBanked = true ↔ t.passesTarget i := by
  simp only [WindowEntry.isBanked, TableSet.passesTarget, Bool.and_eq_true, beq_iff_eq]

theorem hasDuplicate_iff (t : TableSet) (i : Fin 4) : hasDuplicate t i = true ↔ ¬ t.passesDuplicate i := by
  simp [hasDuplicate, TableSet.passesDuplicate, triggerIndices_eq_finRange, and_assoc]

/-- R45: a trigger with enabled no is passed over. -/
theorem triggerFault_disabled {t : TableSet} {i : Fin 4} (h : t.triggers[i].enabled = false) :
    triggerFault t i = none := by
  rw [triggerFault, h]
  rfl

open Classical in
/-- R48: the checks of an enabled trigger in ascending reason code. -/
theorem triggerFault_eq_of_enabled {t : TableSet} {i : Fin 4} (h : t.triggers[i].enabled = true) :
    triggerFault t i =
      if ¬ t.passesTarget i then some .triggerTarget
      else if ¬ t.passesSelf i then some .triggerSelf
      else if ¬ t.passesDuplicate i then some .triggerDuplicate
      else none := by
  simp only [triggerFault, h, if_true, isBanked_iff_passesTarget, WindowEntry.covers_iff_holds, hasDuplicate_iff,
    TableSet.passesSelf, not_not]

/-- Settles O40: the walk's first failure, and each item's checks in their order. -/
theorem validationReportsTheFirstFailure : Obligations.ValidationReportsTheFirstFailure := by
  refine ⟨fun t r i => validate_eq_window_iff, fun t r i => validate_eq_trigger_iff,
    fun w => ⟨windowFault_invalid, fun h => ?_⟩, fun t i => ⟨triggerFault_disabled, fun h => ?_⟩⟩
  · rw [windowFault_eq_of_valid h]
    by_cases hlogical : w.passesLogicalAlign
    case neg => simp [hlogical]
    by_cases hphysical : w.passesPhysicalAlign
    case neg => simp [hlogical, hphysical]
    by_cases htop : w.passesPhysicalTop
    case neg => simp [hlogical, hphysical, htop]
    by_cases hbank : w.passesInitialBank
    case neg => simp [hlogical, hphysical, htop, hbank]
    by_cases hlanding : w.passesLandingRange
    all_goals simp [hlogical, hphysical, htop, hbank, hlanding]
  · rw [triggerFault_eq_of_enabled h]
    by_cases htarget : t.passesTarget i
    case neg => simp [htarget]
    by_cases hself : t.passesSelf i
    case neg => simp [htarget, hself]
    by_cases hduplicate : t.passesDuplicate i
    all_goals simp [htarget, hself, hduplicate]

/-! ### APPLY_TABLE (R50 to R53, R184) -/

/-- R52: a window of the set has bank state exactly if it is valid and BANKED, and then its initial bank. -/
theorem initialBanks_get (t : TableSet) (i : Fin 16) :
    (initialBanks t)[i] =
      if t.windows[i].valid = true ∧ t.windows[i].kind = .banked
      then some { active := t.windows[i].initialBank, pending := none } else none := by
  simp only [initialBanks, banksOf_get, WindowEntry.isBanked, Bool.and_eq_true, beq_iff_eq]

theorem serviceApply_passed {s : State} (h : validate s.staged = none) :
    serviceApply [] s = .ended (applyStaged s) .ok [] := by
  simp only [serviceApply, h]

theorem serviceApply_failed {s : State} {r : TableReason} {x : TableItem} (h : validate s.staged = some (r, x)) :
    serviceApply [] s = .ended s .invalidTable (r.code :: x.bytes) := by
  simp only [serviceApply, h]

/-- R53, R184: the row of APPLY_TABLE on a staged set that fails. -/
theorem exec_applyTable_failed {s : State} {sel : Selection} {r : TableReason} {x : TableItem}
    (h : Collected s sel 0x19 []) (hx : validate s.staged = some (r, x)) :
    exec .applyTable s = .next (s.answered sel .invalidTable (r.code :: x.bytes)) :=
  serviceRow_ended (t := s.executing sel 0x19 []) h (hasOpcode_collected _ _) (serviceApply_failed hx) rfl

/-- Settles O39: a failure is answered by its code, kind and index; a set that passes is applied whole. -/
theorem applyTableIsWholeOrNothing : Obligations.ApplyTableIsWholeOrNothing := by
  refine ⟨fun s sel h => ⟨fun hpass => ⟨initialBanks s.staged, ?_, initialBanks_get s.staged⟩,
    fun r i => exec_applyTable_failed h, fun r i => exec_applyTable_failed h⟩, rfl, rfl, rfl, rfl, rfl, rfl, rfl, rfl⟩
  exact serviceRow_ended (t := applyStaged (s.executing sel 0x19 [])) h (hasOpcode_collected _ _)
    (serviceApply_passed hpass) rfl

end Sys2Proof.Machine
end

section
/-! PROOFS. Changes of a bank state: sets by policy (R65), and the commits of an arrival (R59, R66 to R72). -/
namespace Sys2Proof.Machine

/-! ### Sets of one bank state -/

/-- R65: the set of a bank by the commit policy: AT_ONCE makes it active, the others pending. -/
theorem BankState.setBy_eq (policy : CommitPolicy) (b : Byte) (k : BankState) :
    k.setBy policy b = if policy = .atOnce then { k with active := b } else { k with pending := some b } := by
  cases policy
  all_goals rfl

theorem updateBank_of_some {w : Fin 16} {banks : Banks} {k : BankState} (h : banks[w] = some k)
    (f : BankState → BankState) : updateBank w f banks = banksWith banks w (f k) := by
  rw [updateBank, h, Option.map_some, banksWith]

/-! ### Commits at an arrival -/

/-- R68, R70, R72: a FETCH commits a window's bank exactly if that window's policy asks for it. -/
theorem arrived_banks_of_fetch {s : State} {a : Access} (hk : a.kind = .fetch) (w : Fin 16) :
    (arrived s a).banks[w] =
      if fetchCommits s.live a.start (decodeAccess s.live a) w then s.banks[w].map BankState.commit
      else s.banks[w] := by
  simp only [arrived, banksAtArrival, hk, commitForFetch, banksOf_get]

/-- R59: READ and WRITE commit nothing. -/
theorem arrived_banks_of_not_fetch {s : State} {a : Access} (hk : a.kind ≠ .fetch) : (arrived s a).banks = s.banks := by
  cases h : a.kind with
  | fetch => exact absurd h hk
  | read => simp only [arrived, banksAtArrival, h]
  | write => exact arrived_banks_of_write h

theorem BankState.commit_none {k : BankState} (h : k.pending = none) : k.commit = k := by
  simp only [BankState.commit, h]

theorem BankState.commit_some {k : BankState} {b : Byte} (h : k.pending = some b) :
    k.commit = { active := b, pending := none } := by
  simp only [BankState.commit, h]

/-- A window whose policy asks for no commit keeps its bank state, whatever the arrival. -/
theorem arrived_banks_kept {s : State} {a : Access} {w : Fin 16}
    (h : fetchCommits s.live a.start (decodeAccess s.live a) w = false) : (arrived s a).banks[w] = s.banks[w] := by
  by_cases hk : a.kind = .fetch
  · simp only [arrived_banks_of_fetch hk, h, Bool.false_eq_true, if_false]
  · rw [arrived_banks_of_not_fetch hk]

/-- R67: an AT_ONCE window is committed by no fetch. -/
theorem fetchCommits_atOnce {t : TableSet} {i : Fin 16} (h : t.windows[i].policy = .atOnce) (start : LAddr)
    (r : DecodeResult) : fetchCommits t start r i = false := by
  simp only [fetchCommits, h]

/-- R68: an ON_EXIT window is committed by a fetch that starts outside its range. -/
theorem fetchCommits_onExit {t : TableSet} {i : Fin 16} (h : t.windows[i].policy = .onExit) (start : LAddr)
    (r : DecodeResult) : fetchCommits t start r i = true ↔ ¬ t.windows[i].holds start.toNat := by
  simp only [fetchCommits, h, Bool.not_eq_true', ← Bool.not_eq_true, WindowEntry.covers_iff_holds]

/-- R70: an AT_LANDING window is committed by an accepted fetch at its landing address. -/
theorem fetchCommits_atLanding {t : TableSet} {i : Fin 16} (h : t.windows[i].policy = .atLanding) (start : LAddr)
    (r : DecodeResult) : fetchCommits t start r i = true ↔
      r = .accepted i ∧ start.toNat = t.windows[i].logicalBase.toNat + t.windows[i].landing.toNat := by
  simp only [fetchCommits, h, Bool.and_eq_true, beq_iff_eq]

/-- Settles O8, by the commit that each policy asks of a fetch. -/
theorem fetchCommitsPendingBanks : Obligations.FetchCommitsPendingBanks := by
  intro s a w k hw
  refine ⟨fun hk => ?_, fun hp => ?_, fun hpol => ?_, fun hk hpol b hb => ?_, fun hk hpol b hb => ?_⟩
  · rw [arrived_banks_of_not_fetch hk, hw]
  · by_cases hk : a.kind = .fetch
    · rw [arrived_banks_of_fetch hk, hw, Option.map_some, BankState.commit_none hp, ite_self]
    · rw [arrived_banks_of_not_fetch hk, hw]
  · rw [arrived_banks_kept (fetchCommits_atOnce hpol _ _), hw]
  · simp only [arrived_banks_of_fetch hk, fetchCommits_onExit hpol, hw, Option.map_some, BankState.commit_some hb,
      ite_not]
  · simp only [arrived_banks_of_fetch hk, fetchCommits_atLanding hpol, hw, Option.map_some, BankState.commit_some hb]

end Sys2Proof.Machine
end

section
/-! PROOFS. The captures of a WRITE: candidates in address order, the bank each window keeps, the faults raised (R60
to R63). -/
namespace Sys2Proof.Machine

/-! ### A WRITE's captures, candidate by candidate -/

/-- R61: one candidate, an enabled trigger with its operand byte, is taken. -/
def captureCandidate (a : Access) (s : State) (c : Fin 4 × Byte) : State :=
  captureOne a c.2 s c.1

/-- R60: the enabled triggers that watch a logical address, each with the byte carried there. -/
def candidatesAt (t : TableSet) (addr : Nat) (b : Byte) : List (Fin 4 × Byte) :=
  ((List.finRange 4).filter fun j =>
    t.triggers[j].enabled && decide (t.triggers[j].addr.toNat = addr)).map fun j => (j, b)

/-- R62: the candidates of operand bytes that begin at a logical address. -/
def candidatesFrom (t : TableSet) (addr : Nat) (bytes : List Byte) : List (Fin 4 × Byte) :=
  (List.range bytes.length).flatMap fun i => candidatesAt t (addr + i) (bytes.getD i 0)

theorem candidates_eq_from (t : TableSet) (a : Access) : candidates t a = candidatesFrom t a.start.toNat a.data :=
  rfl

theorem candidatesFrom_cons (t : TableSet) (addr : Nat) (b : Byte) (bytes : List Byte) :
    candidatesFrom t addr (b :: bytes) = candidatesAt t addr b ++ candidatesFrom t (addr + 1) bytes := by
  simp only [candidatesFrom, List.length_cons, List.range_succ_eq_map, List.flatMap_cons, List.flatMap_map,
    Nat.add_zero, List.getD_cons_zero, List.getD_cons_succ, Nat.succ_eq_add_one, Nat.add_assoc, Nat.add_comm 1]

theorem captureByte_eq_foldl (a : Access) (addr : Nat) (b : Byte) (s : State) :
    captureByte a addr b s = (candidatesAt s.live addr b).foldl (captureCandidate a) s := by
  have hindices : triggerIndices = List.finRange 4 := by decide
  rw [captureByte, candidatesAt, List.foldl_map, hindices]
  rfl

theorem captureByte_live (a : Access) (addr : Nat) (b : Byte) (s : State) : (captureByte a addr b s).live = s.live :=
  captureByte_keeps (P := fun t => t.live = s.live) a (fun t c j h => by simpa using h) addr b s rfl

theorem captureBytes_eq_foldl (a : Access) (addr : Nat) (bytes : List Byte) (s : State) :
    captureBytes a addr bytes s = (candidatesFrom s.live addr bytes).foldl (captureCandidate a) s := by
  induction bytes generalizing addr s with
  | nil => rfl
  | cons b bytes ih =>
    rw [captureBytes, ih, captureByte_live, candidatesFrom_cons, List.foldl_append, captureByte_eq_foldl]

/-- R60, R62: the captures of a WRITE take its candidates one after another. -/
theorem captureWrite_eq_foldl {a : Access} (hk : a.kind = .write) (s : State) :
    captureWrite a s = (candidates s.live a).foldl (captureCandidate a) s := by
  rw [candidates_eq_from, ← captureBytes_eq_foldl, captureWrite, hk]

/-- R60: READ and FETCH capture nothing. -/
theorem captureWrite_of_not_write {a : Access} (hk : a.kind ≠ .write) (s : State) : captureWrite a s = s := by
  unfold captureWrite
  split
  · rename_i h
    exact absurd h hk
  · rfl
  · rfl

/-! ### Which candidates a WRITE has -/

theorem mem_candidates {t : TableSet} {a : Access} {j : Fin 4} {c : Byte} :
    (j, c) ∈ candidates t a ↔
      t.triggers[j].enabled = true ∧ ∃ i, a.data[i]? = some c ∧ t.triggers[j].addr.toNat = a.start.toNat + i := by
  simp only [candidates, List.mem_flatMap, List.mem_range, List.mem_map, List.mem_filter, List.mem_finRange, true_and,
    Bool.and_eq_true, decide_eq_true_eq, Prod.mk.injEq]
  constructor
  · rintro ⟨i, hi, m, ⟨he, haddr⟩, rfl, rfl⟩
    exact ⟨he, i, by rw [List.getD_eq_getElem?_getD, List.getElem?_eq_getElem hi, Option.getD_some], haddr⟩
  · rintro ⟨he, i, hc, haddr⟩
    obtain ⟨hi, -⟩ := List.getElem?_eq_some_iff.mp hc
    exact ⟨i, hi, j, ⟨he, haddr⟩, rfl, by rw [List.getD_eq_getElem?_getD, hc, Option.getD_some]⟩

/-- A trigger with a candidate is enabled and watches one of the WRITE's bytes. -/
theorem watched_of_mem_candidates {t : TableSet} {a : Access} {x : Fin 4 × Byte} (h : x ∈ candidates t a) :
    t.triggers[x.1].enabled = true ∧ a.start.toNat ≤ t.triggers[x.1].addr.toNat ∧
      t.triggers[x.1].addr.toNat < a.start.toNat + a.data.length := by
  obtain ⟨he, i, hi, haddr⟩ := mem_candidates.mp h
  obtain ⟨hlt, -⟩ := List.getElem?_eq_some_iff.mp hi
  exact ⟨he, by omega, by omega⟩

/-- A trigger watches one address, so it has one candidate at most. -/
theorem candidates_nodup (t : TableSet) (a : Access) : (candidates t a).Nodup := by
  refine List.pairwise_flatMap.mpr ⟨fun i _ => ?_, ?_⟩
  · have hindices := List.Pairwise.filter
      (fun j => t.triggers[j].enabled && decide (t.triggers[j].addr.toNat = a.start.toNat + i)) (List.nodup_finRange 4)
    exact List.Pairwise.map _ (fun m n hne heq => hne (congrArg Prod.fst heq)) hindices
  · refine List.Pairwise.imp (fun {i k} hne x hi y hk hxy => ?_) List.nodup_range
    subst hxy
    simp only [List.mem_map, List.mem_filter, Bool.and_eq_true, decide_eq_true_eq] at hi hk
    obtain ⟨m, ⟨-, -, hm⟩, rfl⟩ := hi
    obtain ⟨n, ⟨-, -, hn⟩, hx⟩ := hk
    obtain rfl : n = m := congrArg Prod.fst hx
    exact hne (Nat.add_left_cancel (hm.symm.trans hn))

/-- R60: the one enabled trigger a WRITE meets gives its one candidate. -/
theorem candidates_eq_singleton {t : TableSet} {a : Access} {j : Fin 4} {i : Nat} {c : Byte}
    (hc : a.data[i]? = some c) (he : t.triggers[j].enabled = true)
    (haddr : t.triggers[j].addr.toNat = a.start.toNat + i)
    (honly : ∀ m : Fin 4, t.triggers[m].enabled = true → a.start.toNat ≤ t.triggers[m].addr.toNat →
      t.triggers[m].addr.toNat < a.start.toNat + a.data.length → m = j) :
    candidates t a = [(j, c)] := by
  have hiff : ∀ x, x ∈ candidates t a ↔ x ∈ [(j, c)] := by
    rintro ⟨m, d⟩
    rw [List.mem_singleton]
    constructor
    · intro hx
      obtain ⟨hm, hlow, hhigh⟩ := watched_of_mem_candidates hx
      obtain rfl := honly m hm hlow hhigh
      obtain ⟨-, k, hk, hkaddr⟩ := mem_candidates.mp hx
      obtain rfl : k = i := by omega
      obtain rfl : d = c := Option.some.inj (hk.symm.trans hc)
      rfl
    · rintro ⟨⟩
      exact mem_candidates.mpr ⟨he, i, hc, haddr⟩
  exact List.perm_singleton.mp
    ((List.perm_ext_iff_of_nodup (candidates_nodup t a) (List.pairwise_singleton _ _)).mpr hiff)

/-! ### What one candidate changes -/

@[simp] theorem captureCandidate_live (a : Access) (s : State) (c : Fin 4 × Byte) :
    (captureCandidate a s c).live = s.live := by
  simp [captureCandidate]

@[simp] theorem foldl_captureCandidate_live (a : Access) (l : List (Fin 4 × Byte)) (s : State) :
    (l.foldl (captureCandidate a) s).live = s.live := by
  induction l generalizing s with
  | nil => rfl
  | cons c l ih => rw [List.foldl_cons, ih, captureCandidate_live]

/-- R61: a candidate below the bank count sets its target's bank by the policy. -/
theorem captureCandidate_inCount {s : State} {c : Fin 4 × Byte} (h : inCount s.live c = true) (a : Access) :
    captureCandidate a s c = s.setBanks (updateBank s.live.triggers[c.1].target
      (BankState.setBy s.live.windows[s.live.triggers[c.1].target].policy c.2) s.banks) :=
  if_pos (of_decide_eq_true h)

/-- R63: a candidate not below the bank count raises BANK_RANGE. -/
theorem captureCandidate_refused {s : State} {c : Fin 4 × Byte} (h : inCount s.live c = false) (a : Access) :
    captureCandidate a s c =
      raiseFault (.bankRange s.live.triggers[c.1].target c.2 c.1) .write a.len a.start s :=
  if_neg (of_decide_eq_false h)

theorem captureCandidate_fl (a : Access) (s : State) (c : Fin 4 × Byte) :
    (captureCandidate a s c).fl =
      if inCount s.live c then s.fl
      else s.fl.raise (.bankRange s.live.triggers[c.1].target c.2 c.1) .write a.len a.start := by
  cases h : inCount s.live c with
  | true => rw [captureCandidate_inCount h]; rfl
  | false => rw [captureCandidate_refused h]; rfl

theorem captureCandidate_banks (a : Access) (s : State) (c : Fin 4 × Byte) (w : Fin 16) :
    (captureCandidate a s c).banks[w] =
      if inCount s.live c && decide (s.live.triggers[c.1].target = w)
      then s.banks[w].map (BankState.setBy s.live.windows[w].policy c.2) else s.banks[w] := by
  cases h : inCount s.live c with
  | true =>
    simp only [captureCandidate_inCount h, State.setBanks_banks, updateBank_get, Bool.true_and, decide_eq_true_eq]
    split
    · rename_i hw
      subst hw
      rfl
    · rfl
  | false =>
    rw [captureCandidate_refused h]
    rfl

/-- Captures change the bank states and the fault log alone. -/
theorem captureWrite_frame_eq (a : Access) (s : State) :
    captureWrite a s = { s with banks := (captureWrite a s).banks, fl := (captureWrite a s).fl } := by
  refine captureWrite_keeps (P := fun t => t = { s with banks := t.banks, fl := t.fl }) a ?_ s rfl
  intro t c j h
  unfold captureOne
  split
  all_goals
    rw [h]
    rfl

/-! ### What the candidates change together -/

/-- R65: of two sets of one bank the later one counts. -/
theorem BankState.setBy_setBy (policy : CommitPolicy) (b c : Byte) (k : BankState) :
    (k.setBy policy b).setBy policy c = k.setBy policy c := by
  cases policy
  all_goals rfl

/-- R62: the bank place k of a window with this policy after its last candidate, if it has one. -/
def setByLast (policy : CommitPolicy) (last : Option (Fin 4 × Byte)) (k : Option BankState) : Option BankState :=
  last.elim k fun c => k.map (BankState.setBy policy c.2)

theorem set_then_setByLast (policy : CommitPolicy) (c : Fin 4 × Byte) (last : Option (Fin 4 × Byte))
    (k : Option BankState) :
    setByLast policy last (k.map (BankState.setBy policy c.2)) = setByLast policy (some (last.getD c)) k := by
  cases last with
  | none => rfl
  | some d =>
    simp only [setByLast, Option.elim_some, Option.getD_some, Option.map_map]
    exact congrArg (Option.map · k) (funext fun k => BankState.setBy_setBy policy c.2 d.2 k)

/-- R63: the refused candidates raise their faults in order. -/
theorem foldl_captureCandidate_fl (a : Access) (l : List (Fin 4 × Byte)) (s : State) :
    (l.foldl (captureCandidate a) s).fl =
      (l.filter fun c => !inCount s.live c).foldl
        (fun f c => f.raise (.bankRange s.live.triggers[c.1].target c.2 c.1) .write a.len a.start) s.fl := by
  induction l generalizing s with
  | nil => rfl
  | cons c l ih =>
    rw [List.foldl_cons, ih, captureCandidate_live, captureCandidate_fl]
    cases h : inCount s.live c with
    | true => simp [h]
    | false => simp [h]

/-- R62: a window keeps the last of the candidates for it that are in its range. -/
theorem foldl_captureCandidate_banks (a : Access) (l : List (Fin 4 × Byte)) (s : State) (w : Fin 16) :
    (l.foldl (captureCandidate a) s).banks[w] =
      setByLast s.live.windows[w].policy
        (l.filter fun c => inCount s.live c && decide (s.live.triggers[c.1].target = w)).getLast? s.banks[w] := by
  induction l generalizing s with
  | nil => rfl
  | cons c l ih =>
    rw [List.foldl_cons, ih, captureCandidate_live, captureCandidate_banks, List.filter_cons]
    by_cases h : (inCount s.live c && decide (s.live.triggers[c.1].target = w)) = true
    · rw [if_pos h, if_pos h, List.getLast?_cons, set_then_setByLast]
    · rw [if_neg h, if_neg h]

/-- Settles O9: a WRITE takes its candidates in address order, so one candidate is one capture, none is no change, and
of several each window keeps its last. -/
theorem triggerByteIsCaptured : Obligations.TriggerByteIsCaptured := by
  refine ⟨fun s a j i c k hk hc he haddr honly hbank => ?_, fun s a hnone => ?_, fun s a hk _ =>
    ⟨(captureWrite a s).banks, ?_, fun w => ?_⟩⟩
  · rw [captureWrite_eq_foldl hk, candidates_eq_singleton hc he haddr honly, List.foldl_cons, List.foldl_nil]
    refine ⟨fun hlt => ?_, fun hle => ?_⟩
    · rw [captureCandidate_inCount (decide_eq_true hlt), updateBank_of_some hbank, BankState.setBy_eq]
      rfl
    · rw [captureCandidate_refused (decide_eq_false (Nat.not_lt.mpr hle))]
      rfl
  · by_cases hk : a.kind = .write
    · have hempty : candidates s.live a = [] := List.eq_nil_iff_forall_not_mem.mpr fun x hx => by
        obtain ⟨he, hin⟩ := watched_of_mem_candidates hx
        exact hnone hk x.1 he hin
      rw [captureWrite_eq_foldl hk, hempty, List.foldl_nil]
    · exact captureWrite_of_not_write hk s
  · rw [← foldl_captureCandidate_fl, ← captureWrite_eq_foldl hk]
    exact captureWrite_frame_eq a s
  · simp only [captureWrite_eq_foldl hk, foldl_captureCandidate_banks, ← BankState.setBy_eq]
    split
    all_goals
      rename_i hlast
      rw [hlast]
      rfl

end Sys2Proof.Machine
end

section
/-! PROOFS. SET_BANK by its mode, and its refusals in their order (R65, R74, R75, R77, R186). -/
namespace Sys2Proof.Machine

/-! ### The judgement of SET_BANK (R176, R186) -/

theorem isBanked_iff (w : WindowEntry) : w.isBanked = true ↔ w.valid = true ∧ w.kind = .banked := by
  rw [WindowEntry.isBanked, Bool.and_eq_true, beq_iff_eq]

theorem not_isBanked_of {w : WindowEntry} (h : w.valid = false ∨ w.kind = .plain) : w.isBanked = false := by
  rw [← Bool.not_eq_true, isBanked_iff]
  rintro ⟨hv, hk⟩
  rcases h with h | h
  · simp [hv] at h
  · simp [hk] at h

section
variable {s : State} {index bank mode : Byte}

theorem serviceSetBank_badIndex (h : 16 ≤ index.toNat) :
    serviceSetBank [index, bank, mode] s = refuseCommand .badIndex s := by
  simp only [serviceSetBank, indexWithin_of_le h]

theorem serviceSetBank_notBanked {w : Fin 16} (hi : index.toNat = w.val) (h : s.live.windows[w].isBanked = false) :
    serviceSetBank [index, bank, mode] s = refuseCommand .notBanked s := by
  simp only [serviceSetBank, indexWithin_of_eq hi, h, Bool.false_eq_true, if_false]

theorem serviceSetBank_badMode {w : Fin 16} (hi : index.toNat = w.val) (h : s.live.windows[w].isBanked = true)
    (hm : 2 ≤ mode.toNat) : serviceSetBank [index, bank, mode] s = refuseCommand .badValue s := by
  simp only [serviceSetBank, indexWithin_of_eq hi, h, if_true, (readYesNo_eq_none_iff mode).mpr hm]

/-- R77: a bank not below the bank count is refused, and so is it under an unknown mode, with the same status. -/
theorem serviceSetBank_badBank {w : Fin 16} (hi : index.toNat = w.val) (h : s.live.windows[w].isBanked = true)
    (hb : s.live.windows[w].bankCount ≤ bank.toNat) :
    serviceSetBank [index, bank, mode] s = refuseCommand .badValue s := by
  simp only [serviceSetBank, indexWithin_of_eq hi, h, if_true, if_neg (Nat.not_lt.mpr hb)]
  cases readYesNo mode
  all_goals rfl

theorem serviceSetBank_passed {w : Fin 16} {now : Bool} (hi : index.toNat = w.val)
    (h : s.live.windows[w].isBanked = true) (hm : readYesNo mode = some now)
    (hb : bank.toNat < s.live.windows[w].bankCount) :
    serviceSetBank [index, bank, mode] s = .ended (setBank w bank now s) .ok [] := by
  simp only [serviceSetBank, indexWithin_of_eq hi, h, hm, if_true, if_pos hb]

/-- R65, R74: FOLLOW sets by the window's commit policy. -/
theorem serviceSetBank_follow {w : Fin 16} {k : BankState} (hi : index.toNat = w.val)
    (h : s.live.windows[w].isBanked = true) (hb : bank.toNat < s.live.windows[w].bankCount)
    (hk : s.banks[w] = some k) :
    serviceSetBank [index, bank, 0] s = .ended (s.setBanks (banksWith s.banks w
      (if s.live.windows[w].policy = .atOnce then { k with active := bank } else { k with pending := some bank })))
      .ok [] := by
  rw [serviceSetBank_passed hi h rfl hb, setBank, if_neg Bool.false_ne_true, updateBank_of_some hk,
    BankState.setBy_eq]

/-- R75: NOW sets the active bank and clears the pending one. -/
theorem serviceSetBank_now {w : Fin 16} {k : BankState} (hi : index.toNat = w.val)
    (h : s.live.windows[w].isBanked = true) (hb : bank.toNat < s.live.windows[w].bankCount)
    (hk : s.banks[w] = some k) :
    serviceSetBank [index, bank, 1] s =
      .ended (s.setBanks (banksWith s.banks w { active := bank, pending := none })) .ok [] := by
  rw [serviceSetBank_passed hi h rfl hb, setBank, if_pos rfl, updateBank_of_some hk, BankState.setNow]

end

/-! ### The two rows of SET_BANK -/

theorem isFollow_collected {index bank mode : Byte} (h : mode ≠ 1) :
    isFollow (.collected 0x21 [index, bank, mode]) = true := by
  simpa [isFollow, CommandBuffer.collected, opSetBank] using h

theorem isNow_collected {index bank mode : Byte} (h : mode ≠ 0) :
    isNow (.collected 0x21 [index, bank, mode]) = true := by
  simpa [isNow, CommandBuffer.collected, opSetBank] using h

/-- Both rows of SET_BANK run the one execution on the commands they know (log 13). -/
theorem exec_setBank_row {i : Instr} {index bank mode : Byte}
    (h : (i = .setBankFollow ∧ mode ≠ 1) ∨ (i = .setBankNow ∧ mode ≠ 0)) :
    ∃ isRow, isRow (.collected 0x21 [index, bank, mode]) = true ∧
      ∀ s, exec i s = serviceRow isRow serviceSetBank s := by
  obtain ⟨rfl, hm⟩ | ⟨rfl, hm⟩ := h
  · exact ⟨isFollow, isFollow_collected hm, fun _ => rfl⟩
  · exact ⟨isNow, isNow_collected hm, fun _ => rfl⟩

/-- Settles O42: the refusals are those of the one execution that both rows run; FOLLOW and NOW are its two effects. -/
theorem setBankFollowsOrMovesNow : Obligations.SetBankFollowsOrMovesNow := by
  intro s sel index bank mode h
  refine ⟨fun i hi => ?_, fun w hw hv hkind hb k hbank => ?_⟩
  · obtain ⟨isRow, hrow, hexec⟩ := exec_setBank_row (index := index) (bank := bank) hi
    simp only [hexec]
    refine ⟨fun hx => serviceRow_refused h hrow (serviceSetBank_badIndex hx), fun w hw =>
      ⟨fun hn => ?_, fun hv hk hm => ?_, fun hv hk hb => ?_⟩⟩
    · exact serviceRow_refused h hrow (serviceSetBank_notBanked hw (not_isBanked_of hn))
    · exact serviceRow_refused h hrow (serviceSetBank_badMode hw ((isBanked_iff _).mpr ⟨hv, hk⟩) hm)
    · exact serviceRow_refused h hrow (serviceSetBank_badBank hw ((isBanked_iff _).mpr ⟨hv, hk⟩) hb)
  · have hbanked := (isBanked_iff s.live.windows[w]).mpr ⟨hv, hkind⟩
    refine ⟨fun hm => ?_, fun hm => ?_⟩
    all_goals subst hm
    · have hrun := serviceSetBank_follow (s := s.executing sel 0x21 [index, bank, 0]) hw hbanked hb hbank
      exact serviceRow_ended h (isFollow_collected (by decide)) hrun rfl
    · have hrun := serviceSetBank_now (s := s.executing sel 0x21 [index, bank, 1]) hw hbanked hb hbank
      exact serviceRow_ended h (isNow_collected (by decide)) hrun rfl

end Sys2Proof.Machine
end

section
/-! PROOFS. No step of a sound state is stuck (log 16): a beat in progress has its record, and a BANKED window its bank
state (R56, R102, R103). -/
namespace Sys2Proof.Machine

/-- The outcome is no fault of the model. -/
def NotStuck (r : Result) : Prop :=
  ∀ f, r ≠ .fault f

@[simp] theorem notStuck_next (s : State) : NotStuck (.next s) := by
  intro f h
  cases h

@[simp] theorem notStuck_refused (e : Refusal) : NotStuck (.refused e) := by
  intro f h
  cases h

theorem NotStuck.andThen_next {r : Result} (h : NotStuck r) (f : State → State) :
    NotStuck (andThen r fun s => .next (f s)) := by
  cases r with
  | next s => exact notStuck_next _
  | fault e => exact absurd rfl (h e)
  | refused e => exact notStuck_refused _

/-! ### The beat in progress (R102, R103, R118) -/

theorem MemPort.not_leaving_of_performs {m : MemPort} (h : m.phase = .setup ∨ m.strobeRunning = true) :
    ¬ m.isLeaving := by
  intro hl
  have hp : m.phase = .recovery := hl
  obtain h | h := h
  · rw [hp] at h
    cases h
  · rw [MemPort.strobeRunning, hp] at h
    cases h

/-- In SETUP, STROBE and READY_WAIT the port performs a beat of the transaction it is on. -/
theorem MemPort.isOn_of_beat {m : MemPort} {t : Txn} (h : m.phase = .setup ∨ m.strobeRunning = true) (ht : m.isOn t) :
    m.performs t := by
  unfold MemPort.isOn at ht
  split at ht
  · exact ht.elim
  · exact ht
  · exact ht
  · exact ht
  · rename_i hp
    exact absurd hp (MemPort.not_leaving_of_performs h)

theorem Txn.sound.nextBeat {t : Txn} (h : t.sound) : ∃ b, t.beats[t.beatsDone]? = some b := by
  obtain ⟨-, -, hdone, -⟩ := h
  exact ⟨_, List.getElem?_eq_getElem hdone⟩

/-- R103: while a beat is under way its owner holds the record of it. -/
theorem PortsSound.beatInProgress {s : State} (h : PortsSound s)
    (hp : s.mp.phase = .setup ∨ s.mp.strobeRunning = true) : ∃ t b, currentBeat s = some (t, b) := by
  obtain ⟨hentries, hport, howner⟩ := h
  have hstay := MemPort.not_leaving_of_performs hp
  unfold OwnerSound at howner
  split at howner
  · obtain ⟨hidle, -⟩ := howner
    simp [MemPort.strobeRunning, hidle] at hp
  · rename_i hc
    obtain ⟨-, ⟨a, t, c, hpp, hon⟩ | ⟨-, hl⟩⟩ := howner
    · rw [hpp] at hport
      obtain ⟨b, hb⟩ := hport.1.nextBeat
      obtain ⟨hidx, -⟩ := MemPort.isOn_of_beat hp hon
      exact ⟨t, b, by rw [currentBeat_port hc hpp, hidx, hb, Option.map_some]⟩
    · exact absurd hl hstay
  · rename_i n hc
    obtain ⟨-, ⟨e, rest, he, hsv, hsq, hon, -⟩ | ⟨-, hl⟩⟩ := howner
    · obtain ⟨b, hb⟩ := (hentries e (by simp [he])).1.nextBeat
      obtain ⟨hidx, -⟩ := MemPort.isOn_of_beat hp hon
      exact ⟨e.txn, b, by rw [currentBeat_queue hc he hsv hsq, hidx, hb, Option.map_some]⟩
    · exact absurd hl hstay

/-! ### The memory port -/

section
variable {s : State}

theorem endSetup_notStuck (h : PortsSound s) (hp : s.mp.phase = .setup) : NotStuck (endSetup s) := by
  obtain ⟨t, b, hb⟩ := h.beatInProgress (.inl hp)
  simp only [endSetup, hb, notStuck_next]

theorem completeBeat_notStuck (h : PortsSound s) (hr : s.mp.strobeRunning = true) (x y : Byte) :
    NotStuck (completeBeat x y s) := by
  obtain ⟨t, b, hb⟩ := h.beatInProgress (.inr hr)
  simp only [completeBeat, hb, notStuck_next]

theorem timeoutBeat_notStuck (h : PortsSound s) (hr : s.mp.strobeRunning = true) : NotStuck (timeoutBeat s) := by
  obtain ⟨t, b, hb⟩ := h.beatInProgress (.inr hr)
  simp only [timeoutBeat, hb, notStuck_next]

theorem lastStrobePeriod_notStuck (h : PortsSound s) (hr : s.mp.strobeRunning = true) (mrdy : Bool) (x y : Byte) :
    NotStuck (lastStrobePeriod mrdy x y s) := by
  unfold lastStrobePeriod
  split
  · exact completeBeat_notStuck h hr x y
  · split
    · exact completeBeat_notStuck h hr x y
    · split
      · exact notStuck_next _
      · exact timeoutBeat_notStuck h hr

theorem memoryPeriod_notStuck (h : PortsSound s) (mrdy : Bool) (x y : Byte) : NotStuck (memoryPeriod mrdy x y s) := by
  unfold memoryPeriod
  split
  · exact notStuck_next _
  · rename_i hp
    split
    · exact notStuck_next _
    · exact endSetup_notStuck h hp
  · rename_i hp
    split
    · exact notStuck_next _
    · exact lastStrobePeriod_notStuck h (strobeRunning_of_phase (.inl hp)) mrdy x y
  · rename_i hp
    have hr := strobeRunning_of_phase (.inr hp)
    split
    · exact completeBeat_notStuck h hr x y
    · split
      · exact notStuck_next _
      · exact timeoutBeat_notStuck h hr
  · split
    all_goals exact notStuck_next _

theorem execBeatComplete_notStuck (h : PortsSound s) (x y : Byte) : NotStuck (execBeatComplete x y s) := by
  unfold execBeatComplete
  split
  · rename_i hr
    exact completeBeat_notStuck h hr x y
  · exact notStuck_refused _

theorem execBeatTimeout_notStuck (h : PortsSound s) : NotStuck (execBeatTimeout s) := by
  unfold execBeatTimeout
  split
  · rename_i hr
    split
    · exact timeoutBeat_notStuck h hr
    · exact notStuck_refused _
  · exact notStuck_refused _

theorem removalReport_notStuck (h : PortsSound s) (cause : RemovalCause) : NotStuck (removalReport cause s) := by
  cases cause with
  | completed => exact execBeatComplete_notStuck h 0 0
  | timedOut => exact execBeatTimeout_notStuck h

/-! ### Arrivals -/

/-- R56, R58: every valid window of sound bank states translates. -/
theorem BanksSound.physicalStart_isSome (h : BanksSound s) {w : Fin 16} (hv : s.live.windows[w].valid = true)
    (start : LAddr) : ∃ p, physicalStart s.live s.banks w start = some p := by
  cases hk : s.live.windows[w].kind with
  | plain => exact ⟨_, physicalStart_plain hk s.banks start⟩
  | banked =>
    have hb : s.live.windows[w].isBanked = true := (isBanked_iff _).mpr ⟨hv, hk⟩
    obtain ⟨k, hw⟩ := Option.isSome_iff_exists.mp ((h w).1.trans hb)
    exact ⟨_, physicalStart_banked hk hw start⟩

theorem takeArrival_notStuck (h : BanksSound s) (a : Access) : NotStuck (takeArrival a s) := by
  cases hd : decodeAccess s.live a with
  | straddle w =>
    rw [takeArrival_straddle hd]
    exact notStuck_next _
  | rights w =>
    rw [takeArrival_rights hd]
    exact notStuck_next _
  | miss =>
    rw [takeArrival_miss hd]
    exact notStuck_next _
  | accepted w =>
    obtain ⟨hv, -⟩ := holds_of_accepted hd
    obtain ⟨p, hp⟩ := (h.arrived a).physicalStart_isSome hv a.start
    rw [takeArrival_routed hd hp]
    exact notStuck_next _

/-! ### The link -/

theorem whenSampling_notStuck (s t : State) : NotStuck (whenSampling s (.next t)) := by
  unfold whenSampling
  split
  · exact notStuck_next _
  · split
    · exact notStuck_next _
    · exact notStuck_refused _

theorem serviceRow_notStuck (isRow : CommandBuffer → Bool) (run : List Byte → State → ServiceResult) (s : State) :
    NotStuck (serviceRow isRow run s) := by
  unfold serviceRow
  repeat' split
  all_goals simp

/-! ### Every command -/

/-- Only an arrival and the events of a beat under way can meet a stuck fault; every other row answers a next state or
a refusal. -/
theorem exec_notStuck (hports : PortsSound s) (hbanks : BanksSound s) (i : Instr) : NotStuck (exec i s) := by
  cases i with
  | accessArrival a =>
    change NotStuck (execAccessArrival a s)
    unfold execAccessArrival
    repeat' split
    all_goals simp [takeArrival_notStuck hbanks a]
  | resetRelease p l request =>
    change NotStuck (execResetRelease p l request s)
    unfold execResetRelease
    repeat' split
    all_goals simp [takeArrival_notStuck (s := releaseReset p l s) (banksSound_released (sampleStraps p) l)]
  | setupEnd =>
    change NotStuck (execSetupEnd s)
    unfold execSetupEnd
    split
    · rename_i hp
      exact endSetup_notStuck hports hp
    · exact notStuck_refused _
  | beatComplete x y => exact execBeatComplete_notStuck hports x y
  | beatTimeout => exact execBeatTimeout_notStuck hports
  | spaceAdmission cause | moveToGrant cause | drainComplete cause =>
    simp only [exec, execSpaceAdmission, execMoveToGrant, execDrainComplete]
    repeat' split
    all_goals simp [removalReport_notStuck hports cause]
  | readyWait | recoveryEnd | badLength | badCheck | gapTimeout | turnaroundEnd | responseFrameEnd | fallingEdge
  | falseStart | linkInputHigh =>
    simp only [exec, execReadyWait, execRecoveryEnd, execBadLength, execBadCheck, execGapTimeout, execTurnaroundEnd,
      execResponseFrameEnd, execFallingEdge, execFalseStart, execLinkInputHigh]
    repeat' split
    all_goals simp
  | reset => exact notStuck_next _
  | addressFrame v => exact whenSampling_notStuck s _
  | dataFrame b => exact whenSampling_notStuck s _
  | linkBreak => exact whenSampling_notStuck s _
  | framingError mark data =>
    change NotStuck (execFramingError mark data s)
    unfold execFramingError
    split
    · exact notStuck_refused _
    · exact whenSampling_notStuck s _
  | identify | readWindow | writeWindow | readProfile | writeProfile | readTrigger | writeTrigger | readGlobals
  | writeGlobals | copyLiveToStaged | applyTable | readBank | setBankFollow | setBankNow | cancelPending | readFaults
  | removeFaults | setAlert | readQueue | drain | readLinkStatus | badOpcode =>
    exact serviceRow_notStuck _ _ s

/-! ### A part-clock period -/

/-- The link may act before the memory port in a period, and it keeps the port's records. -/
theorem idlePeriod_notStuck (h : (ProfilesInRange s ∧ QueueSound s.wq) ∧ PortsAndBeat s) : NotStuck (idlePeriod s) := by
  unfold idlePeriod
  split
  · exact notStuck_next _
  · rename_i hr
    have hheld : s.resetHeld = false := by simpa using hr
    have hclock := portsAndBeat_kept.clock _ (portsAndBeat_kept.period s h) hheld
    unfold runPeriod
    split
    · exact (memoryPeriod_notStuck hclock.2.1 _ _ _).andThen_next _
    · exact memoryPeriod_notStuck (portsAndBeat_kept.linkPeriod _ _ hclock hheld).2.1 _ _ _

end

/-- Settles O59: the record and the bank state whose lack would be a fault are there by soundness. -/
theorem soundStateIsNeverStuck : Obligations.SoundStateIsNeverStuck := by
  intro s f ⟨htables, _, hbanks, _, hqueue, _, _, hports, hbeat, _⟩
  refine (?_ : NotStuck (step s)) f
  unfold step
  split
  · exact idlePeriod_notStuck ⟨⟨htables.profiles, hqueue⟩, hports, hbeat⟩
  · rename_i c rest _
    exact exec_notStuck (s := s.setPending rest) hports hbanks c

end Sys2Proof.Machine
end

section
/-! PROOFS. The beat planner: the number of beats, and the bytes the beats carry in walk order (R88 to R92). -/
namespace Sys2Proof.Machine

/-! ### The covered bytes of a transaction, as R91 steers them -/

/-- R91: the lane on which the byte at address a travels, true for lane 1. -/
def laneOfByte (width : Width) (a : Nat) : Bool :=
  decide (width = .w16) && decide (a % 2 = 1)

/-- R91: the r bytes from address a upward, operand positions from pos, each on its lane. -/
def steeredBytes (width : Width) (a pos r : Nat) : List (Nat × Nat × Bool) :=
  (List.range r).map fun i => (pos + i, a + i, laneOfByte width (a + i))

@[simp] theorem steeredBytes_zero (width : Width) (a pos : Nat) : steeredBytes width a pos 0 = [] := rfl

theorem steeredBytes_succ (width : Width) (a pos r : Nat) :
    steeredBytes width a pos (r + 1) =
      (pos, a, laneOfByte width a) :: steeredBytes width (a + 1) (pos + 1) r := by
  simp only [steeredBytes, List.range_succ_eq_map, List.map_cons, List.map_map, Nat.add_zero]
  congr 1
  refine List.map_congr_left fun i _ => ?_
  simp only [Function.comp_apply, Nat.succ_eq_add_one, Nat.add_assoc, Nat.add_comm 1 i]

theorem laneOfByte_odd {a : Nat} (ha : a % 2 = 1) : laneOfByte .w16 a = true := by
  simp [laneOfByte, ha]

theorem laneOfByte_even {a : Nat} (ha : ¬ a % 2 = 1) : laneOfByte .w16 a = false := by
  simp [laneOfByte, ha]

/-! ### What one planned beat carries (R88) -/

/-- R88: an address of the physical space is held whole by its 26 bits. -/
theorem ofNat26_toNat {a : Nat} (ha : a < 2 ^ 26) : (BitVec.ofNat 26 a).toNat = a := by
  rw [BitVec.toNat_ofNat, Nat.mod_eq_of_lt ha]

theorem carries_lane0 {a : Nat} (ha : a < 2 ^ 26) (pos : Nat) :
    Beat.carries { addr := BitVec.ofNat 26 a, lanes := .lane0 pos } = [(pos, a, false)] := by
  rw [Beat.carries, ofNat26_toNat ha]

theorem carries_lane1 {a : Nat} (ha : a < 2 ^ 26) (pos : Nat) :
    Beat.carries { addr := BitVec.ofNat 26 a, lanes := .lane1 pos } = [(pos, a, true)] := by
  rw [Beat.carries, ofNat26_toNat ha]

theorem carries_both {a : Nat} (ha : a < 2 ^ 26) (pos : Nat) :
    Beat.carries { addr := BitVec.ofNat 26 a, lanes := .both pos (pos + 1) } =
      [(pos, a, false), (pos + 1, a + 1, true)] := by
  rw [Beat.carries, ofNat26_toNat ha]

/-! ### Width 8 (R89) -/

theorem planNarrow_length (p : PAddr) (len : Nat) : (planNarrow p len).length = len := by
  simp [planNarrow]

/-- R89: each beat carries one byte on lane 0. -/
theorem planNarrow_carries (p : PAddr) (len : Nat) (hfit : p.toNat + len ≤ 2 ^ 26) :
    (planNarrow p len).flatMap Beat.carries = steeredBytes .w8 p.toNat 0 len := by
  have hcarry : ∀ i ∈ List.range len, Beat.carries { addr := addrAbove p i, lanes := .lane0 i } =
      [(0 + i, p.toNat + i, laneOfByte .w8 (p.toNat + i))] := by
    intro i hi
    have hlt : i < len := List.mem_range.mp hi
    rw [addrAbove, carries_lane0 (by omega), Nat.zero_add]
    rfl
  rw [planNarrow, List.flatMap_map, List.flatMap_def, List.map_congr_left hcarry, ← List.flatMap_def,
    ← List.map_eq_flatMap, steeredBytes]

/-! ### Width 16 (R90) -/

/-- R92: an odd start costs an even number of bytes one beat more. -/
theorem planWide_length (a pos r : Nat) (hr : r ≠ 0) : (planWide a pos r).length = (a % 2 + r + 1) / 2 := by
  induction a, pos, r using planWide.induct with
  | case1 => exact absurd rfl hr
  | case2 a pos ha =>
    rw [planWide, if_pos ha, List.length_singleton]
    omega
  | case3 a pos ha =>
    rw [planWide, if_neg ha, List.length_singleton]
    omega
  | case4 a pos r ha ih =>
    rw [planWide, if_pos ha, List.length_cons, ih (by omega)]
    omega
  | case5 a pos r ha ih =>
    rw [planWide, if_neg ha, List.length_cons]
    obtain rfl | hrest := Nat.eq_zero_or_pos r
    · rw [planWide, List.length_nil]
      omega
    · rw [ih (by omega)]
      omega

/-- R90, R91: the walk carries the bytes from a upward, each on the lane of its address's parity. -/
theorem planWide_carries (a pos r : Nat) (hfit : a + r ≤ 2 ^ 26) :
    (planWide a pos r).flatMap Beat.carries = steeredBytes .w16 a pos r := by
  induction a, pos, r using planWide.induct with
  | case1 => rfl
  | case2 a pos ha =>
    rw [planWide, if_pos ha, List.flatMap_singleton, carries_lane1 (by omega), steeredBytes_succ,
      laneOfByte_odd ha, steeredBytes_zero]
  | case3 a pos ha =>
    rw [planWide, if_neg ha, List.flatMap_singleton, carries_lane0 (by omega), steeredBytes_succ,
      laneOfByte_even ha, steeredBytes_zero]
  | case4 a pos r ha ih =>
    rw [planWide, if_pos ha, List.flatMap_cons, carries_lane1 (by omega), ih (by omega),
      steeredBytes_succ .w16 a, laneOfByte_odd ha, List.singleton_append]
  | case5 a pos r ha ih =>
    have hnext : (a + 1) % 2 = 1 := by omega
    rw [planWide, if_neg ha, List.flatMap_cons, carries_both (by omega), ih (by omega),
      steeredBytes_succ .w16 a, laneOfByte_even ha, steeredBytes_succ .w16 (a + 1), laneOfByte_odd hnext]
    rfl

/-! ### The whole plan -/

/-- R92, for each width and length. -/
theorem planBeats_length (p : PAddr) (l : Len) (width : Width) :
    (planBeats p l width).length = beatCount p l width := by
  cases width with
  | w8 => exact planNarrow_length p l.bytes
  | w16 =>
    have hwalk := planWide_length p.toNat 0 l.bytes (by cases l <;> decide)
    rw [planBeats, hwalk]
    cases l with
    | one =>
      simp only [Len.bytes, beatCount]
      omega
    | two | four =>
      simp only [Len.bytes, beatCount]
      split <;> omega

/-- R91, for both widths. -/
theorem planBeats_carries (p : PAddr) (l : Len) (width : Width) (hfit : p.toNat + l.bytes ≤ 2 ^ 26) :
    (planBeats p l width).flatMap Beat.carries = steeredBytes width p.toNat 0 l.bytes := by
  cases width with
  | w8 => exact planNarrow_carries p l.bytes hfit
  | w16 => exact planWide_carries p.toNat 0 l.bytes hfit

/-- Settles O14: the walk's length is R92's count, and what its beats carry is the covered bytes, steered by R91. -/
theorem beatPlanCarriesEachByteOnce : Obligations.BeatPlanCarriesEachByteOnce := by
  intro p l width hfit
  refine ⟨planBeats_length p l width, ?_⟩
  rw [planBeats_carries p l width hfit]
  simp only [steeredBytes, laneOfByte, Nat.zero_add]

end Sys2Proof.Machine
end

section
/-! PROOFS. The reports of a queue beat, and the removal rows (R112, R118, R126 to R128, R138; log 1). -/
namespace Sys2Proof.Machine

/-! ### A beat of the queue head completes (R127, R128) -/

/-- R118: WQ acts on the complete report of its own beat. -/
theorem QueueBeat.beatDone_eq {s : State} {e : QueueEntry} {rest : List QueueEntry} {b : Beat}
    (h : QueueBeat s e rest b) (x y : Byte) :
    beatDone b x y s = afterReport (queueBeatDone e rest { s with mp := s.mp.ended .complete }) := by
  obtain ⟨-, hcur, he, -, -⟩ := h
  have hcur' : (s.mp.endStrobe .complete).current = some (.queue e.seq) := hcur
  simp only [beatDone, ownerBeatDone, State.setMp_mp, State.setMp_wq, hcur', he]
  rfl

/-- R127: WQ counts a beat that is not the last. -/
theorem queueBeatDone_more {e : QueueEntry} (h : e.txn.beatsDone + 1 ≠ e.txn.beats.length)
    (rest : List QueueEntry) (s : State) :
    queueBeatDone e rest s = { s with wq := { s.wq with
      entries := { e with txn := { e.txn with beatsDone := e.txn.beatsDone + 1 } } :: rest } } := by
  rw [queueBeatDone, if_neg (by simpa [Txn.onLastBeat] using h)]
  rfl

/-- R128: at the last beat the head leaves. -/
theorem queueBeatDone_last {e : QueueEntry} (h : e.txn.beatsDone + 1 = e.txn.beats.length)
    (rest : List QueueEntry) (s : State) : queueBeatDone e rest s = removeHead .completed s := by
  rw [queueBeatDone, if_pos (by simpa [Txn.onLastBeat] using h)]

/-- Settles O18: the report is WQ's own action, split at the last beat. -/
theorem queueBeatCompletes : Obligations.QueueBeatCompletes := by
  intro s e rest b x y h
  rw [exec_beatComplete_of_running (strobeRunning_of_phase h.1) h.currentBeat_eq, h.beatDone_eq]
  refine ⟨fun hmore => ?_, fun hlast => ?_⟩
  · rw [queueBeatDone_more hmore]
  · rw [queueBeatDone_last hlast]

/-! ### The rows of a removal (R126, R132, R133, R138; log 1) -/

theorem QueueBeat.headLeaves_completed {s : State} {e : QueueEntry} {rest : List QueueEntry} {b : Beat}
    (h : QueueBeat s e rest b) (hlast : e.txn.beatsDone + 1 = e.txn.beats.length) :
    headLeaves .completed s = true := by
  obtain ⟨-, hcur, he, -, -⟩ := h
  simpa [headLeaves, hcur, he, Txn.onLastBeat] using hlast

theorem QueueBeat.headLeaves_timedOut {s : State} {e : QueueEntry} {rest : List QueueEntry} {b : Beat}
    (h : QueueBeat s e rest b) : headLeaves .timedOut s = true := by
  obtain ⟨-, hcur, he, -, -⟩ := h
  simp [headLeaves, hcur, he]

theorem exec_spaceAdmission_eq {s : State} {a : Access} {t : Txn} {c : RemovalCause}
    (hpp : s.pp = .held a t .space) (hleaves : headLeaves c s = true) :
    exec (.spaceAdmission c) s = removalReport c s := by
  change execSpaceAdmission c s = _
  rw [execSpaceAdmission, if_pos (by simp [heldForSpace, hpp]), if_pos hleaves]

theorem exec_moveToGrant_eq {s : State} {c : RemovalCause} (helig : becomesEligible s = true)
    (hleaves : headLeaves c s = true) : exec (.moveToGrant c) s = removalReport c s := by
  change execMoveToGrant c s = _
  rw [execMoveToGrant, if_pos hleaves, if_pos helig]

theorem exec_drainComplete_eq {s : State} {e : QueueEntry} {rest : List QueueEntry} {m : DrainMarker}
    {c : RemovalCause} (hm : s.wq.marker = some m) (he : s.wq.entries = e :: rest) (hlast : e.seq = m.last)
    (hleaves : headLeaves c s = true) : exec (.drainComplete c) s = removalReport c s := by
  change execDrainComplete c s = _
  rw [execDrainComplete, if_pos hleaves, if_pos (by simp [headLastMarked, hm, he, hlast])]

/-- R132: no entry behind the head overlaps the held access. -/
theorem becomesEligible_overlap {s : State} {e : QueueEntry} {rest : List QueueEntry} {a : Access} {t : Txn}
    (he : s.wq.entries = e :: rest) (hpp : s.pp = .held a t .overlap)
    (hfree : ∀ f ∈ rest, f.txn.overlaps t = false) : becomesEligible s = true := by
  simpa [becomesEligible, hpp, he, anyOverlap] using hfree

/-- R133: nothing stands behind the head. -/
theorem becomesEligible_empty {s : State} {e : QueueEntry} {a : Access} {t : Txn} (he : s.wq.entries = [e])
    (hpp : s.pp = .held a t .empty) : becomesEligible s = true := by
  simp [becomesEligible, hpp, he]

/-- Settles O22: each row is the removing report, which is a completion (O18) or a timeout (O19) of the queue head. -/
theorem removalRowsAreTheRemovingReport : Obligations.RemovalRowsAreTheRemovingReport := by
  intro s e rest b i c h hrow
  have he : s.wq.entries = e :: rest := h.2.2.1
  have hreport : headLeaves c s = true → exec i s = removalReport c s := by
    intro hleaves
    rcases hrow with ⟨rfl, a, t, hpp⟩ | ⟨rfl, ⟨a, t, hpp, hfree⟩ | ⟨⟨a, t, hpp⟩, rfl⟩⟩ | ⟨rfl, m, hm, hlast⟩
    · exact exec_spaceAdmission_eq hpp hleaves
    · exact exec_moveToGrant_eq (becomesEligible_overlap he hpp hfree) hleaves
    · exact exec_moveToGrant_eq (becomesEligible_empty he hpp) hleaves
    · exact exec_drainComplete_eq hm he hlast hleaves
  refine ⟨fun hc hlast => ?_, fun hc hmode hlimit => ?_⟩
  · subst hc
    rw [hreport (h.headLeaves_completed hlast)]
    exact (queueBeatCompletes s e rest b 0 0 h).2 hlast
  · subst hc
    rw [hreport h.headLeaves_timedOut]
    exact beatTimeoutIsAnsweredOrRemovesTheHead.2 s e rest b h hmode hlimit

end Sys2Proof.Machine
end

section
/-! PROOFS. The end of a RECOVERY: next beat, grant, or IDLE (R103, R112, R114, R117). -/
namespace Sys2Proof.Machine

/-! ### The beat that starts -/

/-- R103, R104: the next beat of a transaction starts as the first one does under a grant. -/
theorem startBeat_beginsBeat {m : MemPort} {o : Origin} {t : Txn} {b : Beat} {k : Nat} (hcur : m.current = some o)
    (htiming : t.timing = m.timing) (hb : t.beats[k]? = some b) : BeginsBeat (m.startBeat t b k) o t k := by
  have hgrant : m.startBeat t b k = m.grant o { t with beatsDone := k } b := by
    rw [MemPort.grant, htiming, ← hcur]
    rfl
  rw [hgrant]
  exact grant_beginsBeat m o (t := { t with beatsDone := k }) hb

/-- R85, R103: an untouched transaction with beats is granted at its first beat. -/
theorem grant_beginsFirstBeat (m : MemPort) (o : Origin) {t : Txn} (hdone : t.beatsDone = 0) (hne : t.beats ≠ []) :
    ∃ b, t.beats[t.beatsDone]? = some b ∧ BeginsBeat (m.grant o t b) o t 0 := by
  have hb : t.beats[t.beatsDone]? = some (t.beats.head hne) := by
    rw [hdone, ← List.head?_eq_getElem?, List.head?_eq_some_head hne]
  have hbegins := grant_beginsBeat m o hb
  rw [hdone] at hbegins
  exact ⟨_, hb, hbegins⟩

/-! ### The arbiter without an eligible PP access (R114) -/

theorem arbitrate_of_noClaim {s : State} (hp : s.mp.phase = .idle) (hpp : ∀ a t, s.pp ≠ .held a t .grant) :
    arbitrate s = grantHead s := by
  simp only [arbitrate, hp]
  split
  · rename_i a t hheld
    exact absurd hheld (hpp a t)
  all_goals rfl

/-- R114, R127: the WAITING head is granted. -/
theorem grantHead_waiting {s : State} {e : QueueEntry} {rest : List QueueEntry} {b : Beat}
    (he : s.wq.entries = e :: rest) (hw : e.service = .waiting) (hb : e.txn.beats[e.txn.beatsDone]? = some b) :
    grantHead s = { s with
      mp := s.mp.grant (.queue e.seq) e.txn b
      wq := { s.wq with entries := { e with service := .inService } :: rest } } := by
  simp only [grantHead, he, hw, hb]
  rfl

theorem grantHead_nil {s : State} (he : s.wq.entries = []) : grantHead s = s := by
  simp only [grantHead, he]

/-! ### The end of RECOVERY (R103, R112) -/

theorem exec_recoveryEnd_of_recovery {s : State} (h : s.mp.phase = .recovery) :
    exec .recoveryEnd s = .next (recoveryDone s) := by
  change execRecoveryEnd s = _
  rw [execRecoveryEnd, if_pos h]

/-- R103: a transaction with a beat to come goes on. -/
theorem recoveryDone_nextBeat {s : State} {t : Txn} {b : Beat} (hout : s.mp.outcome = .complete)
    (htxn : currentTxn s = some t) (hb : t.beats[s.mp.beatIndex + 1]? = some b) :
    recoveryDone s = { s with mp := s.mp.startBeat t b (s.mp.beatIndex + 1) } := by
  simp only [recoveryDone, hout, htxn, hb]
  rfl

/-- R103, R114: after a transaction that has ended, the arbiter acts on an IDLE port. -/
theorem recoveryDone_ended {s : State} (h : s.mp.outcome = .timeout ∨ currentTxn s = none) :
    recoveryDone s = arbitrate (s.setMp s.mp.goIdle) := by
  rcases h with hout | htxn
  · simp only [recoveryDone, hout]
  · simp only [recoveryDone, htxn]
    cases s.mp.outcome
    all_goals rfl

/-- Settles O20: the next beat goes on, and after an ended transaction the arbiter's three cases. -/
theorem recoveryEndsInNextBeatOrGrant : Obligations.RecoveryEndsInNextBeatOrGrant := by
  refine ⟨fun s hrec => ⟨exec_recoveryEnd_of_recovery hrec, fun h0 => if_pos h0, fun hne => if_neg hne⟩,
    fun s t o hrec hout hcur htxn htiming hmore => ?_, fun s hrec hended => ?_⟩
  · have hb := List.getElem?_eq_getElem hmore
    refine ⟨_, ?_, startBeat_beginsBeat hcur htiming hb⟩
    rw [exec_recoveryEnd_of_recovery hrec, recoveryDone_nextBeat hout htxn hb]
  · rw [exec_recoveryEnd_of_recovery hrec, recoveryDone_ended hended]
    have hidle : (s.setMp s.mp.goIdle).mp.phase = .idle := rfl
    refine ⟨fun a t hpp hdone hne => ?_, fun e rest hpp he hw hdone hne => ?_, fun hpp hnil => ?_⟩
    · obtain ⟨b, hb, hbegins⟩ := grant_beginsFirstBeat s.mp.goIdle .port hdone hne
      refine ⟨_, ?_, hbegins⟩
      rw [arbitrate_held hidle hpp hb, emptyOperand_eq]
      rfl
    · obtain ⟨b, hb, hbegins⟩ := grant_beginsFirstBeat s.mp.goIdle (.queue e.seq) hdone hne
      refine ⟨_, ?_, hbegins⟩
      rw [arbitrate_of_noClaim hidle hpp, grantHead_waiting (s := s.setMp s.mp.goIdle) he hw hb]
      rfl
    · rw [arbitrate_of_noClaim hidle hpp, grantHead_nil (s := s.setMp s.mp.goIdle) hnil]
      rfl

end Sys2Proof.Machine
end

section
/-! PROOFS. How long the phases of the memory port last, and where each begins (R104 to R107, R110, R112, R113). -/
namespace Sys2Proof.Machine

/-! ### The events that end a phase, by what they are shared with -/

theorem exec_setupEnd_of_setup {s : State} (h : s.mp.phase = .setup) : exec .setupEnd s = endSetup s := by
  change execSetupEnd s = _
  rw [execSetupEnd, if_pos h]

theorem exec_beatComplete_eq {s : State} (h : s.mp.phase = .strobe ∨ s.mp.phase = .readyWait) (x y : Byte) :
    exec (.beatComplete x y) s = completeBeat x y s := by
  change execBeatComplete x y s = _
  rw [execBeatComplete, if_pos (strobeRunning_of_phase h)]

theorem exec_beatTimeout_eq {s : State} (h : s.mp.phase = .strobe ∨ s.mp.phase = .readyWait)
    (hmode : s.mp.timing.mode = .ready) (hlimit : s.mp.phase = .strobe → s.mp.timing.limit ≤ s.mp.timing.strobe) :
    exec .beatTimeout s = timeoutBeat s := by
  change execBeatTimeout s = _
  rw [execBeatTimeout, if_pos (strobeRunning_of_phase h), if_pos (mayTimeOut_of_phase h hmode hlimit)]

/-- Settles O16: each event is one equation of the memory port. -/
theorem strobePhasesBegin : Obligations.StrobePhasesBegin := by
  refine ⟨fun s t b hp hb => ?_, fun s hp hmode hlt => ?_⟩
  · rw [exec_setupEnd_of_setup hp, endSetup, hb]
    rfl
  · change execReadyWait s = _
    rw [execReadyWait, if_pos hp, if_pos (by simp [MemPort.mayWait, hmode, hlt])]
    rfl

/-! ### The states within a phase (R102) -/

/-- The state in period n of SETUP or RECOVERY. -/
def State.inPhasePeriod (s : State) (n : Nat) : State :=
  { s with mp := { s.mp with phaseCount := n } }

/-- The state in period n of STROBE. -/
def State.inStrobePeriod (s : State) (n : Nat) : State :=
  { s with mp := { s.mp with phaseCount := n, strobeCount := n } }

/-- The state in strobe period n of a beat in READY_WAIT, whose STROBE ended with its last period. -/
def State.inWaitPeriod (s : State) (n : Nat) : State :=
  { s with mp := { s.mp with phase := .readyWait, phaseCount := s.mp.timing.strobe, strobeCount := n } }

theorem State.inPhasePeriod_self {s : State} {n : Nat} (h : s.mp.phaseCount = n) : s.inPhasePeriod n = s := by
  subst h
  rfl

/-- The first period of a strobe in STROBE, under a profile of the given mode (R104, R105). -/
structure StrobeBegun (s : State) (mode : ReadyMode) : Prop where
  phase : s.mp.phase = .strobe
  mode : s.mp.timing.mode = mode
  strobeCount : s.mp.strobeCount = 1
  phaseCount : s.mp.phaseCount = 1
  strobe : 1 ≤ s.mp.timing.strobe

theorem StrobeBegun.first {s : State} {mode : ReadyMode} (h : StrobeBegun s mode) : s.inStrobePeriod 1 = s := by
  calc s.inStrobePeriod 1
    _ = { s with mp := { s.mp with phaseCount := s.mp.phaseCount, strobeCount := s.mp.strobeCount } } := by
      rw [h.phaseCount, h.strobeCount, State.inStrobePeriod]
    _ = s := rfl

/-! ### One period within a phase, and the last one -/

theorem memoryPeriod_setup_counts {s : State} {n : Nat} (hp : s.mp.phase = .setup) (hn : n < s.mp.timing.setup)
    (mrdy : Bool) (x y : Byte) :
    memoryPeriod mrdy x y (s.inPhasePeriod n) = .next (s.inPhasePeriod (n + 1)) := by
  simp only [memoryPeriod, State.inPhasePeriod, hp, if_pos hn]
  rfl

theorem memoryPeriod_setup_ends {s : State} (hp : s.mp.phase = .setup) (hn : s.mp.timing.setup ≤ s.mp.phaseCount)
    (mrdy : Bool) (x y : Byte) : memoryPeriod mrdy x y s = exec .setupEnd s := by
  rw [exec_setupEnd_of_setup hp]
  simp only [memoryPeriod, hp, if_neg (Nat.not_lt.mpr hn)]

theorem memoryPeriod_recovery_counts {s : State} {n : Nat} (hp : s.mp.phase = .recovery)
    (hn : n < s.mp.timing.recovery) (mrdy : Bool) (x y : Byte) :
    memoryPeriod mrdy x y (s.inPhasePeriod n) = .next (s.inPhasePeriod (n + 1)) := by
  simp only [memoryPeriod, State.inPhasePeriod, hp, if_pos hn]
  rfl

theorem memoryPeriod_recovery_ends {s : State} (hp : s.mp.phase = .recovery)
    (hn : s.mp.timing.recovery ≤ s.mp.phaseCount) (mrdy : Bool) (x y : Byte) :
    memoryPeriod mrdy x y s = exec .recoveryEnd s := by
  rw [exec_recoveryEnd_of_recovery hp]
  simp only [memoryPeriod, hp, if_neg (Nat.not_lt.mpr hn)]

/-- R105, R107: before the last STROBE period MRDY is not looked at, in either mode. -/
theorem memoryPeriod_strobe_counts {s : State} {n : Nat} (hp : s.mp.phase = .strobe) (hn : n < s.mp.timing.strobe)
    (mrdy : Bool) (x y : Byte) :
    memoryPeriod mrdy x y (s.inStrobePeriod n) = .next (s.inStrobePeriod (n + 1)) := by
  simp only [memoryPeriod, State.inStrobePeriod, hp, if_pos hn]
  rfl

theorem memoryPeriod_strobe_last {s : State} (hp : s.mp.phase = .strobe)
    (hn : s.mp.timing.strobe ≤ s.mp.strobeCount) (mrdy : Bool) (x y : Byte) :
    memoryPeriod mrdy x y s = lastStrobePeriod mrdy x y s := by
  simp only [memoryPeriod, hp, if_neg (Nat.not_lt.mpr hn)]

/-- R105: a FIXED strobe ends normally whatever MRDY is. -/
theorem memoryPeriod_fixed_ends {s : State} (hp : s.mp.phase = .strobe) (hmode : s.mp.timing.mode = .fixed)
    (hn : s.mp.timing.strobe ≤ s.mp.strobeCount) (mrdy : Bool) (x y : Byte) :
    memoryPeriod mrdy x y s = exec (.beatComplete x y) s := by
  rw [memoryPeriod_strobe_last hp hn, exec_beatComplete_eq (.inl hp)]
  simp only [lastStrobePeriod, hmode]

/-- R106: MRDY low in the last STROBE period below the limit begins READY_WAIT. -/
theorem memoryPeriod_ready_begins_wait {s : State} (hp : s.mp.phase = .strobe) (hmode : s.mp.timing.mode = .ready)
    (hn : s.mp.timing.strobe ≤ s.mp.strobeCount) (hlimit : s.mp.timing.strobe < s.mp.timing.limit) (x y : Byte) :
    memoryPeriod false x y s = .next (enterReadyWait s) := by
  rw [memoryPeriod_strobe_last hp hn]
  simp only [lastStrobePeriod, hmode, Bool.false_eq_true, if_false, if_pos hlimit]

/-- R107: MRDY low in READY_WAIT below the limit waits on. -/
theorem memoryPeriod_wait_counts {s : State} (hp : s.mp.phase = .readyWait)
    (hlimit : s.mp.strobeCount < s.mp.timing.limit) (x y : Byte) :
    memoryPeriod false x y s = .next (s.setMp s.mp.countWait) := by
  simp only [memoryPeriod, hp, Bool.false_eq_true, if_false, if_pos hlimit]

/-- R106, R107: MRDY high in the last STROBE period or in READY_WAIT ends the beat normally. -/
theorem memoryPeriod_ready_ends {s : State}
    (hp : s.mp.phase = .strobe ∧ s.mp.timing.strobe ≤ s.mp.strobeCount ∨ s.mp.phase = .readyWait)
    (hmode : s.mp.timing.mode = .ready) (x y : Byte) :
    memoryPeriod true x y s = exec (.beatComplete x y) s := by
  rcases hp with ⟨hp, hn⟩ | hp
  · rw [memoryPeriod_strobe_last hp hn, exec_beatComplete_eq (.inl hp)]
    simp only [lastStrobePeriod, hmode, if_true]
  · rw [exec_beatComplete_eq (.inr hp)]
    simp only [memoryPeriod, hp, if_true]

/-- R107, R110: MRDY low in READY_WAIT at the limit is a timeout. -/
theorem memoryPeriod_wait_times_out {s : State} (hp : s.mp.phase = .readyWait) (hmode : s.mp.timing.mode = .ready)
    (hlimit : s.mp.timing.limit ≤ s.mp.strobeCount) (x y : Byte) :
    memoryPeriod false x y s = exec .beatTimeout s := by
  rw [exec_beatTimeout_eq (.inr hp) hmode (by simp [hp])]
  simp only [memoryPeriod, hp, Bool.false_eq_true, if_false, if_neg (Nat.not_lt.mpr hlimit)]

/-- R106, R110: MRDY low in the last STROBE period is a timeout when the limit leaves no period to wait. -/
theorem memoryPeriod_strobe_times_out {s : State} (hp : s.mp.phase = .strobe) (hmode : s.mp.timing.mode = .ready)
    (hn : s.mp.timing.strobe ≤ s.mp.strobeCount) (hlimit : s.mp.timing.limit ≤ s.mp.timing.strobe) (x y : Byte) :
    memoryPeriod false x y s = exec .beatTimeout s := by
  rw [memoryPeriod_strobe_last hp hn, exec_beatTimeout_eq (.inl hp) hmode (fun _ => hlimit)]
  simp only [lastStrobePeriod, hmode, Bool.false_eq_true, if_false, if_neg (Nat.not_lt.mpr hlimit)]

/-! ### Periods in a row -/

section
variable {mrdy : Nat → Bool} {lane0 lane1 : Nat → Byte}

theorem memoryPeriods_succ {s u : State} {n : Nat} (h : memoryPeriods mrdy lane0 lane1 n s = .next u) :
    memoryPeriods mrdy lane0 lane1 (n + 1) s = memoryPeriod (mrdy n) (lane0 n) (lane1 n) u := by
  rw [memoryPeriods, h, andThen]

/-- Period n of a row of at least one is the one after n − 1 of them. -/
theorem memoryPeriods_last {s u : State} {n : Nat} (hn : 1 ≤ n)
    (h : memoryPeriods mrdy lane0 lane1 (n - 1) s = .next u) :
    memoryPeriods mrdy lane0 lane1 n s = memoryPeriod (mrdy (n - 1)) (lane0 (n - 1)) (lane1 (n - 1)) u := by
  rw [← memoryPeriods_succ h, Nat.sub_add_cancel hn]

/-- A phase that counts its periods up to its length stands in period n + 1 after n of them. -/
theorem memoryPeriods_count {s : State} {inPeriod : Nat → State} {length : Nat} (hfirst : inPeriod 1 = s)
    (hcounts : ∀ n, n < length → ∀ m x y, memoryPeriod m x y (inPeriod n) = .next (inPeriod (n + 1))) :
    ∀ n, n < length → memoryPeriods mrdy lane0 lane1 n s = .next (inPeriod (n + 1)) := by
  intro n
  induction n with
  | zero =>
    intro _
    rw [hfirst, memoryPeriods]
  | succ n ih =>
    intro hn
    rw [memoryPeriods_succ (ih (by omega))]
    exact hcounts (n + 1) hn _ _ _

/-- A phase that so counts and then ends does so with the period of its length. -/
theorem memoryPeriods_end {s : State} {inPeriod : Nat → State} {length : Nat} (hfirst : inPeriod 1 = s)
    (hlength : 1 ≤ length)
    (hcounts : ∀ n, n < length → ∀ m x y, memoryPeriod m x y (inPeriod n) = .next (inPeriod (n + 1))) :
    memoryPeriods mrdy lane0 lane1 length s =
      memoryPeriod (mrdy (length - 1)) (lane0 (length - 1)) (lane1 (length - 1)) (inPeriod length) := by
  have hlast := memoryPeriods_count (mrdy := mrdy) (lane0 := lane0) (lane1 := lane1) hfirst hcounts (length - 1)
    (by omega)
  rw [Nat.sub_add_cancel hlength] at hlast
  exact memoryPeriods_last hlength hlast

/-- R105: the STROBE phase, up to its last period. -/
theorem StrobeBegun.memoryPeriods_strobe {s : State} {mode : ReadyMode} (h : StrobeBegun s mode) :
    memoryPeriods mrdy lane0 lane1 s.mp.timing.strobe s =
      memoryPeriod (mrdy (s.mp.timing.strobe - 1)) (lane0 (s.mp.timing.strobe - 1)) (lane1 (s.mp.timing.strobe - 1))
        (s.inStrobePeriod s.mp.timing.strobe) :=
  memoryPeriods_end h.first h.strobe fun _ hn => memoryPeriod_strobe_counts h.phase hn

/-- R106, R107: READY_WAIT lasts while MRDY is low from the last STROBE period on and the limit is not reached. -/
theorem StrobeBegun.memoryPeriods_wait {s : State} (h : StrobeBegun s .ready) {n : Nat}
    (hn : s.mp.timing.strobe ≤ n) (hlimit : n < s.mp.timing.limit)
    (hlow : ∀ k, s.mp.timing.strobe ≤ k + 1 → k < n → mrdy k = false) :
    memoryPeriods mrdy lane0 lane1 n s = .next (s.inWaitPeriod (n + 1)) := by
  have hstrobe := h.strobe
  induction hn with
  | refl =>
    rw [h.memoryPeriods_strobe, hlow _ (by omega) (by omega)]
    exact memoryPeriod_ready_begins_wait (s := s.inStrobePeriod s.mp.timing.strobe) h.phase h.mode (Nat.le_refl _)
      hlimit _ _
  | @step n hle ih =>
    have hn : s.mp.timing.strobe ≤ n := hle
    rw [memoryPeriods_succ (ih (by omega) fun k hk hkn => hlow k hk (by omega)), hlow n (by omega) (by omega)]
    exact memoryPeriod_wait_counts (s := s.inWaitPeriod (n + 1)) rfl hlimit _ _

/-- R105: a FIXED strobe ends normally in its last period, with the lanes of that period. -/
theorem StrobeBegun.memoryPeriods_fixed {s : State} (h : StrobeBegun s .fixed) :
    memoryPeriods mrdy lane0 lane1 s.mp.timing.strobe s =
      exec (.beatComplete (lane0 (s.mp.timing.strobe - 1)) (lane1 (s.mp.timing.strobe - 1)))
        (s.inStrobePeriod s.mp.timing.strobe) := by
  rw [h.memoryPeriods_strobe]
  exact memoryPeriod_fixed_ends (s := s.inStrobePeriod s.mp.timing.strobe) h.phase h.mode (Nat.le_refl _) _ _ _

/-- R106: MRDY high in the last STROBE period ends the beat there. -/
theorem StrobeBegun.memoryPeriods_ready_at_once {s : State} (h : StrobeBegun s .ready)
    (hhigh : mrdy (s.mp.timing.strobe - 1) = true) :
    memoryPeriods mrdy lane0 lane1 s.mp.timing.strobe s =
      exec (.beatComplete (lane0 (s.mp.timing.strobe - 1)) (lane1 (s.mp.timing.strobe - 1)))
        (s.inStrobePeriod s.mp.timing.strobe) := by
  rw [h.memoryPeriods_strobe, hhigh]
  exact memoryPeriod_ready_ends (s := s.inStrobePeriod s.mp.timing.strobe) (.inl ⟨h.phase, Nat.le_refl _⟩) h.mode _ _

/-- R106, R110: with no period to wait, MRDY low in the last STROBE period times the beat out. -/
theorem StrobeBegun.memoryPeriods_times_out_at_once {s : State} (h : StrobeBegun s .ready)
    (hlimit : s.mp.timing.limit ≤ s.mp.timing.strobe) (hlow : mrdy (s.mp.timing.strobe - 1) = false) :
    memoryPeriods mrdy lane0 lane1 s.mp.timing.strobe s =
      exec .beatTimeout (s.inStrobePeriod s.mp.timing.strobe) := by
  rw [h.memoryPeriods_strobe, hlow]
  exact memoryPeriod_strobe_times_out (s := s.inStrobePeriod s.mp.timing.strobe) h.phase h.mode (Nat.le_refl _)
    hlimit _ _

/-- R107: what READY_WAIT comes to in strobe period n, MRDY having been low before it, is that period's own doing. -/
theorem StrobeBegun.memoryPeriods_after_wait {s : State} (h : StrobeBegun s .ready) {n : Nat}
    (hn : s.mp.timing.strobe < n) (hlimit : n ≤ s.mp.timing.limit)
    (hlow : ∀ k, s.mp.timing.strobe ≤ k + 1 → k + 1 < n → mrdy k = false) :
    memoryPeriods mrdy lane0 lane1 n s =
      memoryPeriod (mrdy (n - 1)) (lane0 (n - 1)) (lane1 (n - 1)) (s.inWaitPeriod n) := by
  have hwait := h.memoryPeriods_wait (mrdy := mrdy) (lane0 := lane0) (lane1 := lane1) (n := n - 1) (by omega)
    (by omega) fun k hk hkn => hlow k hk (by omega)
  rw [Nat.sub_add_cancel (by omega)] at hwait
  exact memoryPeriods_last (by omega) hwait

/-- R107: MRDY first high in READY_WAIT ends the beat there. -/
theorem StrobeBegun.memoryPeriods_ready_in_wait {s : State} (h : StrobeBegun s .ready) {n : Nat}
    (hn : s.mp.timing.strobe < n) (hlimit : n ≤ s.mp.timing.limit)
    (hlow : ∀ k, s.mp.timing.strobe ≤ k + 1 → k + 1 < n → mrdy k = false) (hhigh : mrdy (n - 1) = true) :
    memoryPeriods mrdy lane0 lane1 n s =
      exec (.beatComplete (lane0 (n - 1)) (lane1 (n - 1))) (s.inWaitPeriod n) := by
  rw [h.memoryPeriods_after_wait hn hlimit hlow, hhigh]
  exact memoryPeriod_ready_ends (s := s.inWaitPeriod n) (.inr rfl) h.mode _ _

/-- R110: MRDY low from the last STROBE period to the limit times the beat out. -/
theorem StrobeBegun.memoryPeriods_times_out {s : State} (h : StrobeBegun s .ready)
    (hlimit : s.mp.timing.strobe < s.mp.timing.limit) (hlow : ∀ k, s.mp.timing.strobe ≤ k + 1 → mrdy k = false) :
    memoryPeriods mrdy lane0 lane1 s.mp.timing.limit s = exec .beatTimeout (s.inWaitPeriod s.mp.timing.limit) := by
  rw [h.memoryPeriods_after_wait hlimit (Nat.le_refl _) fun k hk _ => hlow k hk, hlow _ (by omega)]
  exact memoryPeriod_wait_times_out (s := s.inWaitPeriod s.mp.timing.limit) rfl h.mode (Nat.le_refl _) _ _

end

/-- Settles O23, phase by phase: the periods it counts, and the event that its last period is. -/
theorem phasesLastTheirPeriods : Obligations.PhasesLastTheirPeriods := by
  refine ⟨fun s mrdy lane0 lane1 hp hmode hsc hpc hst => ?_,
    fun s mrdy lane0 lane1 hp hmode hsc hpc hst hlimit hlow => ?_,
    fun s mrdy lane0 lane1 n hp hmode hsc hpc hst hn hlimit hlow hhigh => ?_,
    fun s mrdy lane0 lane1 hp hmode hsc hpc hst hlimit hlow => ?_,
    fun s mrdy lane0 lane1 hp hpc hsetup => ?_, fun s mrdy lane0 lane1 hp hpc hrecovery => ?_⟩
  · have h : StrobeBegun s .fixed := ⟨hp, hmode, hsc, hpc, hst⟩
    exact ⟨memoryPeriods_count h.first fun _ hn => memoryPeriod_strobe_counts hp hn, h.memoryPeriods_fixed⟩
  · have h : StrobeBegun s .ready := ⟨hp, hmode, hsc, hpc, hst⟩
    exact ⟨fun n hn hnl => h.memoryPeriods_wait hn hnl fun k hk _ => hlow k hk, h.memoryPeriods_times_out hlimit hlow⟩
  · have h : StrobeBegun s .ready := ⟨hp, hmode, hsc, hpc, hst⟩
    obtain rfl | hwait := Nat.eq_or_lt_of_le hn
    · rw [h.memoryPeriods_ready_at_once hhigh, if_pos rfl, ← hp]
      rfl
    · rw [h.memoryPeriods_ready_in_wait hwait hlimit hlow hhigh, if_neg (Nat.ne_of_gt hwait)]
      rfl
  · have h : StrobeBegun s .ready := ⟨hp, hmode, hsc, hpc, hst⟩
    rw [hlimit]
    exact h.memoryPeriods_times_out_at_once (Nat.le_of_eq hlimit) hlow
  · have hfirst := State.inPhasePeriod_self hpc
    refine ⟨memoryPeriods_count hfirst fun _ hn => memoryPeriod_setup_counts hp hn, ?_⟩
    rw [memoryPeriods_end hfirst hsetup fun _ hn => memoryPeriod_setup_counts hp hn]
    exact memoryPeriod_setup_ends (s := s.inPhasePeriod s.mp.timing.setup) hp (Nat.le_refl _) _ _ _
  · have hfirst := State.inPhasePeriod_self hpc
    refine ⟨memoryPeriods_count hfirst fun _ hn => memoryPeriod_recovery_counts hp hn, ?_⟩
    rw [memoryPeriods_end hfirst hrecovery fun _ hn => memoryPeriod_recovery_counts hp hn]
    exact memoryPeriod_recovery_ends (s := s.inPhasePeriod s.mp.timing.recovery) hp (Nat.le_refl _) _ _ _

end Sys2Proof.Machine
end

section
/-! PROOFS. The queue, its drain marker and the service link stay sound at every event (R122 to R124, R138, R162 to
R173, R193). -/
namespace Sys2Proof.Machine

/-- Settles O52: every event of the part keeps it, by the one case split over a step. -/
theorem queueStaysSound : Obligations.QueueStaysSound :=
  fun _ _ hs ht => queueSound_kept.step hs ht

/-! ### What a marker does not see of the queue (R138) -/

/-- Of the entries, a marker's soundness looks at their number and at the head's sequence number alone. -/
theorem DrainSound.of_numbers {q r : WriteQueue} (h : DrainSound q) (hmarker : r.marker = q.marker)
    (hlen : r.entries.length = q.entries.length) (hhead : headSeq r = headSeq q) : DrainSound r := by
  intro m hm
  have hq : MarkerSound q m := h m (hmarker ▸ hm)
  unfold MarkerSound at hq ⊢
  rw [hlen, hhead]
  exact hq

theorem DrainSound.of_noMarker {q : WriteQueue} (h : q.marker = none) : DrainSound q := by
  intro m hm
  rw [h] at hm
  cases hm

theorem Conversation.of_eq {s t : State} (h : Conversation s) (hwq : t.wq = s.wq) (hsl : t.sl = s.sl) :
    Conversation t := by
  unfold Conversation
  rw [hwq, hsl]
  exact h

theorem Conversation.of_noMarker {s : State} (hm : s.wq.marker = none) (hl : LinkSound s.sl none) :
    Conversation s :=
  ⟨.of_noMarker hm, hm ▸ hl⟩

/-- A change of the head that keeps its number leaves marker and link sound. -/
theorem Conversation.head {s : State} (h : Conversation s) {e f : QueueEntry} {rest : List QueueEntry}
    (he : s.wq.entries = e :: rest) (hseq : f.seq = e.seq) :
    Conversation (s.setWq { s.wq with entries := f :: rest }) := by
  refine ⟨h.1.of_numbers rfl (by simp [he]) ?_, h.2⟩
  simp only [headSeq, State.setWq_wq, he, hseq]

/-! ### The memory port's events -/

theorem Conversation.headGranted {s : State} (h : Conversation s) : Conversation (grantHead s) := by
  unfold grantHead
  split
  · exact h
  · rename_i e rest he
    split
    · exact Conversation.head (s := s.setMp _) h he rfl
    · exact h
    · exact h

theorem Conversation.arbitrated {s : State} (h : Conversation s) : Conversation (arbitrate s) := by
  unfold arbitrate
  split
  · split
    · exact h.of_eq (by simp) (by simp)
    all_goals exact h.headGranted
  all_goals exact h

/-- R12, R127, R128: the owner's action at a complete report; only a queue head on its last beat is removed. -/
theorem Conversation.ownerDone {s : State} (h : Conversation s) (hq : QueueSound s.wq) (b : Beat) (x y : Byte) :
    Conversation (ownerBeatDone b x y s) := by
  unfold ownerBeatDone
  split
  · exact h
  · split
    · exact h.of_eq (by simp) (by simp)
    · exact h
    · exact h
  · split
    · exact h
    · rename_i e rest he
      unfold queueBeatDone
      split
      · exact h.removed hq _
      · exact h.head (f := { e with txn := e.txn.advance }) he rfl

/-- R14, R129: the owner's action at a timeout report. -/
theorem Conversation.ownerTimedOut {s : State} (h : Conversation s) (hq : QueueSound s.wq) (t : Txn) (b : Beat) :
    Conversation (ownerTimeout t b s) := by
  unfold ownerTimeout
  split
  · exact h
  · exact h.of_eq (by simp) (by simp)
  · exact Conversation.removed (h.of_eq (by simp) (by simp)) (by simpa using hq) _

theorem Conversation.recovered {s : State} (h : Conversation s) : Conversation (recoveryDone s) := by
  have hidle : Conversation (arbitrate (s.setMp s.mp.goIdle)) := Conversation.arbitrated (s := s.setMp s.mp.goIdle) h
  unfold recoveryDone
  split
  · split
    · exact h
    · exact hidle
  all_goals exact hidle

theorem Conversation.reported {s : State} (h : Conversation s) : Conversation (afterReport s) := by
  unfold afterReport
  split
  · exact h.recovered
  · exact h

theorem Conversation.beatDone {s : State} (h : Conversation s) (hq : QueueSound s.wq) (b : Beat) (x y : Byte) :
    Conversation (beatDone b x y s) :=
  (Conversation.ownerDone (s := s.setMp (s.mp.endStrobe .complete)) h hq b x y).reported

theorem Conversation.beatFailed {s : State} (h : Conversation s) (hq : QueueSound s.wq) (t : Txn) (b : Beat) :
    Conversation (beatFailed t b s) :=
  (Conversation.ownerTimedOut (s := s.setMp (s.mp.endStrobe .timeout)) h hq t b).reported

/-- R9, R11: the outcome of an accepted access. -/
theorem Conversation.routed {s : State} (h : Conversation s) (a : Access) (t : Txn) :
    Conversation (routeAccess a t s) := by
  unfold routeAccess
  split
  · split
    · exact Conversation.arbitrated ⟨h.1.enqueue t, h.2⟩
    · exact h
  · exact Conversation.arbitrated (s := s.setPp _) h

theorem Conversation.arrival {s t : State} {a : Access} (h : Conversation s) (ht : takeArrival a s = .next t) :
    Conversation t := by
  obtain ⟨cause, rfl⟩ | rfl | ⟨w, p, rfl⟩ := takeArrival_cases ht
  · exact h.of_eq (by simp) (by simp [arrived])
  · exact h.of_eq (by simp) (by simp [arrived])
  · exact Conversation.routed (h.of_eq (by simp) (by simp [arrived])) a _

theorem Conversation.released (st : Straps) (high : Bool) : Conversation (State.released st high) :=
  .of_noMarker rfl ⟨rfl, rfl, rfl, rfl, rfl, rfl⟩

/-! ### What each receiver state holds (R162) -/

section
variable {l : ServiceLink} {marker : Option DrainMarker}

theorem linkSound_unselected_iff (hr : l.receiver = .unselected) :
    LinkSound l marker ↔ l.command = none ∧ l.response = none ∧ l.transmitter = .off ∧ l.heldOver = none ∧
      l.gapTimer = none ∧ marker = none := by
  unfold LinkSound
  rw [hr]

theorem linkSound_selected_iff {sel : Selection} (hr : l.receiver = .selected sel) :
    LinkSound l marker ↔ l.response = none ∧ l.transmitter = .off ∧ l.heldOver = none ∧ marker = none ∧
      l.gapTimer.isSome = l.command.isSome ∧ ∀ c, l.command = some c → c.sound := by
  unfold LinkSound
  rw [hr]

theorem linkSound_executing_iff {sel : Selection} (hr : l.receiver = .executing sel) :
    LinkSound l marker ↔ l.response = none ∧ l.transmitter = .off ∧ l.heldOver = none ∧ l.gapTimer = none ∧
      marker.isSome = true ∧ l.command = some drainBuffer := by
  unfold LinkSound
  rw [hr]

theorem linkSound_responding_iff (hr : l.receiver = .responding) :
    LinkSound l marker ↔ l.command = none ∧ l.gapTimer = none ∧ marker = none ∧ SendingSound l := by
  unfold LinkSound
  rw [hr]

/-- R162: only a unit in RESPONDING has a response under way. -/
theorem LinkSound.responding_of_transmitting (h : LinkSound l marker) (ht : l.transmitter ≠ .off) :
    l.receiver = .responding := by
  cases hr : l.receiver with
  | unselected =>
    obtain ⟨-, -, hoff, -⟩ := (linkSound_unselected_iff hr).mp h
    exact absurd hoff ht
  | selected sel =>
    obtain ⟨-, hoff, -⟩ := (linkSound_selected_iff hr).mp h
    exact absurd hoff ht
  | executing sel =>
    obtain ⟨-, hoff, -⟩ := (linkSound_executing_iff hr).mp h
    exact absurd hoff ht
  | responding => rfl

/-- R168: the gap timer runs only while a command is collected. -/
theorem LinkSound.selected_of_gapTimer (h : LinkSound l marker) (hg : l.gapTimer.isSome = true) :
    ∃ sel, l.receiver = .selected sel := by
  have hstopped : l.gapTimer ≠ none := Option.isSome_iff_ne_none.mp hg
  cases hr : l.receiver with
  | unselected =>
    obtain ⟨-, -, -, -, hnone, -⟩ := (linkSound_unselected_iff hr).mp h
    exact absurd hnone hstopped
  | selected sel => exact ⟨sel, rfl⟩
  | executing sel =>
    obtain ⟨-, -, -, hnone, -⟩ := (linkSound_executing_iff hr).mp h
    exact absurd hnone hstopped
  | responding =>
    obtain ⟨-, hnone, -⟩ := (linkSound_responding_iff hr).mp h
    exact absurd hnone hstopped

/-- R169: a marker stands only beside a DRAIN being executed. -/
theorem LinkSound.noMarker (h : LinkSound l marker) (hr : ∀ sel, l.receiver ≠ .executing sel) : marker = none := by
  cases hrec : l.receiver with
  | unselected =>
    obtain ⟨-, -, -, -, -, hnone⟩ := (linkSound_unselected_iff hrec).mp h
    exact hnone
  | selected sel =>
    obtain ⟨-, -, -, hnone, -⟩ := (linkSound_selected_iff hrec).mp h
    exact hnone
  | executing sel => exact absurd hrec (hr sel)
  | responding =>
    obtain ⟨-, -, hnone, -⟩ := (linkSound_responding_iff hrec).mp h
    exact hnone

/-! ### The response under way (R170, R171) -/

theorem sendingSound_turnaround_iff (ht : l.transmitter = .turnaround) :
    SendingSound l ↔ ∃ r, l.response = some r ∧ r.sound ∧ l.heldOver = none := by
  unfold SendingSound
  rw [ht]
  cases l.response with
  | none => simp
  | some r => simp

theorem sendingSound_sending_iff {k b p : Nat} (ht : l.transmitter = .sending k b p) :
    SendingSound l ↔ ∃ r, l.response = some r ∧ r.sound ∧ k < r.frames.length ∧ b ≤ 10 := by
  unfold SendingSound
  rw [ht]
  cases l.response with
  | none => simp
  | some r => simp

theorem SendingSound.advance (h : SendingSound l) : SendingSound l.advance := by
  cases ht : l.transmitter with
  | off =>
    unfold SendingSound at h
    rw [ht] at h
    cases hr : l.response with
    | none => rw [hr] at h; exact h.elim
    | some r => rw [hr] at h; exact h.elim
  | turnaround =>
    have hadv : l.advance.transmitter = .turnaround := by simp [ServiceLink.advance, ht, Transmitter.tick]
    exact (sendingSound_turnaround_iff hadv).mpr ((sendingSound_turnaround_iff ht).mp h)
  | sending k b p =>
    have hadv : l.advance.transmitter = .sending k b (p + 1) := by simp [ServiceLink.advance, ht, Transmitter.tick]
    exact (sendingSound_sending_iff hadv).mpr ((sendingSound_sending_iff ht).mp h)

/-- A link on which only counts and levels moved is as sound as before: the gap timer still runs or still stands, and
what was being sent still is. -/
theorem LinkSound.of_moved {k : ServiceLink} (h : LinkSound l marker) (hrec : k.receiver = l.receiver)
    (hcom : k.command = l.command) (hresp : k.response = l.response) (hheld : k.heldOver = l.heldOver)
    (hgap : k.gapTimer.isSome = l.gapTimer.isSome) (hoff : l.transmitter = .off → k.transmitter = .off)
    (hsend : SendingSound l → SendingSound k) : LinkSound k marker := by
  have hstopped : l.gapTimer = none → k.gapTimer = none := by
    intro hg
    rwa [hg, Option.isSome_none, Option.isSome_eq_false_iff, Option.isNone_iff_eq_none] at hgap
  cases hr : l.receiver with
  | unselected =>
    obtain ⟨hc, hp, ht, hh, hg, hm⟩ := (linkSound_unselected_iff hr).mp h
    exact (linkSound_unselected_iff (hrec.trans hr)).mpr
      ⟨hcom.trans hc, hresp.trans hp, hoff ht, hheld.trans hh, hstopped hg, hm⟩
  | selected sel =>
    obtain ⟨hp, ht, hh, hm, hg, hc⟩ := (linkSound_selected_iff hr).mp h
    exact (linkSound_selected_iff (hrec.trans hr)).mpr
      ⟨hresp.trans hp, hoff ht, hheld.trans hh, hm, by rw [hgap, hg, hcom], by rwa [hcom]⟩
  | executing sel =>
    obtain ⟨hp, ht, hh, hg, hm, hc⟩ := (linkSound_executing_iff hr).mp h
    exact (linkSound_executing_iff (hrec.trans hr)).mpr
      ⟨hresp.trans hp, hoff ht, hheld.trans hh, hstopped hg, hm, hcom.trans hc⟩
  | responding =>
    obtain ⟨hc, hg, hm, hs⟩ := (linkSound_responding_iff hr).mp h
    exact (linkSound_responding_iff (hrec.trans hr)).mpr ⟨hcom.trans hc, hstopped hg, hm, hsend hs⟩

/-- The link's timers moving on leave the conversation as it is. -/
theorem LinkSound.advance (h : LinkSound l marker) : LinkSound l.advance marker :=
  h.of_moved rfl rfl rfl rfl Option.isSome_map
    (fun ht => by simp [ServiceLink.advance, ht, Transmitter.tick]) SendingSound.advance

end

/-! ### Frames that end or select, and the gap timeout (R163, R168, R173) -/

theorem selectionOf_cases (unit : BitVec 5) (v : Byte) :
    selectionOf unit v = .unselected ∨ ∃ sel, selectionOf unit v = .selected sel := by
  unfold selectionOf
  repeat' split
  · exact .inr ⟨_, rfl⟩
  · exact .inr ⟨_, rfl⟩
  · exact .inl rfl

/-- R162, R163: a unit with a cleared conversation is sound in whatever state an address gives it. -/
theorem LinkSound.addressed (l : ServiceLink) (unit : BitVec 5) (v : Byte) :
    LinkSound { l.clearConversation with receiver := selectionOf unit v } none := by
  obtain hr | ⟨sel, hr⟩ := selectionOf_cases unit v
  · exact (linkSound_unselected_iff hr).mpr ⟨rfl, rfl, rfl, rfl, rfl, rfl⟩
  · exact (linkSound_selected_iff hr).mpr ⟨rfl, rfl, rfl, rfl, rfl, fun c hc => by cases hc⟩

/-- R139: where a DRAIN is being executed it is abandoned, and elsewhere no marker stands. -/
theorem Conversation.abandoned {s : State} (h : Conversation s) : (abandonDrain s).wq.marker = none := by
  unfold abandonDrain
  split
  · rfl
  all_goals
    rename_i hr
    exact h.2.noMarker (by simp [hr])

theorem Conversation.address {s : State} (h : Conversation s) (v : Byte) : Conversation (takeAddress v s) := by
  unfold takeAddress
  split
  · rename_i k b p ht
    have hr := h.2.responding_of_transmitting (by simp [ht])
    obtain ⟨hc, hg, hm, hs⟩ := (linkSound_responding_iff hr).mp h.2
    refine ⟨h.1, (linkSound_responding_iff (l := { s.sl with heldOver := some v }) hr).mpr ⟨hc, hg, hm, ?_⟩⟩
    exact (sendingSound_sending_iff (l := { s.sl with heldOver := some v }) ht).mpr
      ((sendingSound_sending_iff ht).mp hs)
  all_goals exact .of_noMarker h.abandoned (LinkSound.addressed _ _ _)

theorem Conversation.broken {s : State} (h : Conversation s) : Conversation (takeBreak s) :=
  .of_noMarker h.abandoned ⟨rfl, rfl, rfl, rfl, rfl, rfl⟩

/-- R161: a framing error restarts a gap timer that runs, and no other. -/
theorem Conversation.framingError {s : State} (h : Conversation s) : Conversation (takeFramingError s) :=
  ⟨h.1, h.2.of_moved rfl rfl rfl rfl Option.isSome_map id id⟩

theorem Conversation.gapTimedOut {s : State} (h : Conversation s) (hg : s.sl.gapTimer.isSome = true) :
    Conversation (takeGapTimeout s) := by
  obtain ⟨sel, hr⟩ := h.2.selected_of_gapTimer hg
  obtain ⟨hresp, ht, hheld, hm, -⟩ := (linkSound_selected_iff hr).mp h.2
  exact .of_noMarker hm ⟨rfl, hresp, ht, hheld, rfl, rfl⟩

/-! ### The response transmitter (R163, R170, R171) -/

/-- A response under way stays sound when its transmitter moves to a bit of one of its frames. -/
theorem Conversation.sending {s : State} (h : Conversation s) {r : Response} (ht : s.sl.transmitter ≠ .off)
    (hresp : s.sl.response = some r) (hr : r.sound) {k b : Nat} (hk : k < r.frames.length) (hb : b ≤ 10) :
    Conversation (s.setSl { s.sl with transmitter := .sending k b 0 }) := by
  have hrec := h.2.responding_of_transmitting ht
  obtain ⟨hc, hg, hm, -⟩ := (linkSound_responding_iff hrec).mp h.2
  exact ⟨h.1, (linkSound_responding_iff (l := { s.sl with transmitter := .sending k b 0 }) hrec).mpr
    ⟨hc, hg, hm, (sendingSound_sending_iff rfl).mpr ⟨r, hresp, hr, hk, hb⟩⟩⟩

theorem Conversation.turnaroundEnded {s : State} (h : Conversation s) (ht : s.sl.transmitter = .turnaround) :
    Conversation (beginResponseFrames s) := by
  have hne : s.sl.transmitter ≠ .off := by simp [ht]
  obtain ⟨-, -, -, hs⟩ := (linkSound_responding_iff (h.2.responding_of_transmitting hne)).mp h.2
  obtain ⟨r, hresp, hr, -⟩ := (sendingSound_turnaround_iff ht).mp hs
  exact h.sending hne hresp hr (by rw [frames_length]; omega) (Nat.zero_le _)

/-- The response of which frame k is being sent. -/
theorem Conversation.response_of_sending {s : State} (h : Conversation s) {k b p : Nat}
    (ht : s.sl.transmitter = .sending k b p) :
    ∃ r, s.sl.response = some r ∧ r.sound ∧ k < r.frames.length ∧ b ≤ 10 := by
  obtain ⟨-, -, -, hs⟩ := (linkSound_responding_iff (h.2.responding_of_transmitting (by simp [ht]))).mp h.2
  exact (sendingSound_sending_iff ht).mp hs

theorem Conversation.nextBit {s : State} (h : Conversation s) {k b p : Nat}
    (ht : s.sl.transmitter = .sending k b p) (hb : b < 10) :
    Conversation (s.setSl { s.sl with transmitter := .sending k (b + 1) 0 }) := by
  obtain ⟨r, hresp, hr, hk, -⟩ := h.response_of_sending ht
  exact h.sending (by simp [ht]) hresp hr hk hb

/-- R163, R171: after a response frame the selection held over, the next frame, or the wait for an opcode. -/
theorem Conversation.frameSent {s : State} (h : Conversation s) {k b p : Nat}
    (ht : s.sl.transmitter = .sending k b p) : Conversation (endResponseFrame k s) := by
  have hne : s.sl.transmitter ≠ .off := by simp [ht]
  obtain ⟨hc, hg, hm, -⟩ := (linkSound_responding_iff (h.2.responding_of_transmitting hne)).mp h.2
  obtain ⟨r, hresp, hr, -⟩ := h.response_of_sending ht
  unfold endResponseFrame
  split
  · exact .of_noMarker hm (LinkSound.addressed _ _ _)
  · rename_i hheld
    split
    · rename_i hk
      rw [responseFrameCount, hresp] at hk
      exact h.sending hne hresp hr hk (Nat.zero_le _)
    · refine .of_noMarker hm ((linkSound_selected_iff rfl).mpr ⟨rfl, rfl, hheld, rfl, ?_, ?_⟩)
      · show s.sl.gapTimer.isSome = s.sl.command.isSome
        rw [hc, hg]
        rfl
      · intro c hcom
        rw [show s.sl.command = some c from hcom] at hc
        cases hc

/-! ### Collecting a command (R166, R167) -/

/-- A frame taken into a command restarts the gap timer and leaves a sound buffer. -/
theorem Conversation.collected {s : State} {sel : Selection} {c : CommandBuffer} (h : Conversation s)
    (hr : s.sl.receiver = .selected sel) (hc : c.sound) : Conversation (collect c s) := by
  obtain ⟨hresp, ht, hheld, hm, -⟩ := (linkSound_selected_iff hr).mp h.2
  refine ⟨h.1, (linkSound_selected_iff (l := { s.sl with command := some c, gapTimer := some 0 }) hr).mpr
    ⟨hresp, ht, hheld, hm, rfl, fun d hd => ?_⟩⟩
  cases hd
  exact hc

theorem Conversation.buffer {s : State} {sel : Selection} {c : CommandBuffer} (h : Conversation s)
    (hr : s.sl.receiver = .selected sel) (hc : s.sl.command = some c) : c.sound := by
  obtain ⟨-, -, -, -, -, hsound⟩ := (linkSound_selected_iff hr).mp h.2
  exact hsound c hc

theorem CommandBuffer.sound_opcode (b : Byte) :
    ({ opcode := b, length := none, payload := [], sum := b } : CommandBuffer).sound :=
  ⟨rfl, rfl⟩

/-- R166: the running sum of a length frame. -/
theorem CommandBuffer.sound_length {c : CommandBuffer} (h : c.sound) (hl : c.length = none) {n : Byte}
    (hn : n.toNat ≤ maxPayload) : ({ c with length := some n, sum := c.sum + n } : CommandBuffer).sound := by
  unfold CommandBuffer.sound at h
  rw [hl] at h
  obtain ⟨hp, hs⟩ := h
  refine ⟨hn, ?_, ?_⟩
  · simp [hp]
  · simp [hp, hs, byteSum]

/-- R166, R167: a command ended at collection leaves a sound link without a marker. -/
theorem Conversation.ended {s : State} {sel : Selection} (h : Conversation s) (hr : s.sl.receiver = .selected sel)
    (status : Status) {next : Receiver} (hnext : next = .unselected ∨ next = .selected .broadcast) :
    Conversation (endCollection sel status next s) := by
  obtain ⟨hresp, ht, hheld, hm, -⟩ := (linkSound_selected_iff hr).mp h.2
  cases sel with
  | addressed => exact .of_noMarker hm (LinkSound.responding _ _ _ (Nat.zero_le _) hheld)
  | broadcast =>
    obtain rfl | rfl := hnext
    · exact .of_noMarker hm ⟨rfl, hresp, ht, hheld, rfl, rfl⟩
    · exact .of_noMarker hm ⟨hresp, ht, hheld, rfl, rfl, fun c hc => by cases hc⟩

/-- R167: a refused check is counted beside the end of the collection. -/
theorem Conversation.checkRefused {s : State} {sel : Selection} (h : Conversation s)
    (hr : s.sl.receiver = .selected sel) : Conversation (refuseCheck sel s) :=
  Conversation.ended
    (s := s.setSl { s.sl with counters := { s.sl.counters with badChecks := bump s.sl.counters.badChecks } })
    h hr .badCheck (.inr rfl)

/-! ### Executions (R137, R169, R192) -/

theorem encodeWindow_length (w : WindowEntry) : (encodeWindow w).length = 16 := rfl
theorem encodeProfile_length (p : Profile) : (encodeProfile p).length = 6 := rfl
theorem encodeTrigger_length (g : Trigger) : (encodeTrigger g).length = 5 := rfl
theorem encodeGlobals_length (g : Globals) : (encodeGlobals g).length = 2 := rfl
theorem encodeFault_length (r : FaultRecord) : (encodeFault r).length = 16 := by
  obtain ⟨seq, cause, access, len, start⟩ := r
  cases cause
  all_goals rfl
theorem tableItem_length (i : TableItem) : i.bytes.length = 2 := by
  cases i
  all_goals rfl

theorem flatMap_encodeFault_length : ∀ rs : List FaultRecord, (rs.flatMap encodeFault).length = 16 * rs.length
  | [] => rfl
  | r :: rs => by
    rw [List.flatMap_cons, List.length_append, encodeFault_length, flatMap_encodeFault_length rs, List.length_cons]
    omega

/-- R149: READ_FAULTS answers with at most 3 records. -/
theorem faultReport_length_le (l : FaultLog) : (faultReport l).length ≤ maxPayload := by
  have h3 : (l.records.take 3).length ≤ 3 := List.length_take_le 3 l.records
  simp only [faultReport, List.length_cons, flatMap_encodeFault_length, maxPayload]
  omega

/-- R169, R170: an execution that ends at its check frame has a response that fits and leaves the marker alone. -/
def EndsSoundly (run : List Byte → State → ServiceResult) : Prop :=
  ∀ p s t status answer, run p s = .ended t status answer →
    answer.length ≤ maxPayload ∧ t.wq.marker = s.wq.marker

theorem serviceReadFaults_endsSoundly : EndsSoundly serviceReadFaults := by
  intro p s t status answer h
  unfold serviceReadFaults refuseCommand at h
  split at h
  · cases h
    exact ⟨faultReport_length_le s.fl, rfl⟩
  · cases h
    exact ⟨Nat.zero_le _, rfl⟩

theorem serviceOf_endsSoundly (op : Byte) : EndsSoundly (serviceOf op) := by
  have hrefused : EndsSoundly serviceBadOpcode := by
    intro p s t status answer h
    cases h
    exact ⟨Nat.zero_le _, rfl⟩
  refine serviceOf_keeps hrefused ?_ op
  simp only [serviceTable, List.forall_mem_cons, List.not_mem_nil, false_implies, implies_true, and_true,
    serviceReadFaults_endsSoundly, true_and]
  and_intros
  all_goals
    intro p s t status answer h
    simp only [serviceIdentify, serviceReadWindow, serviceWriteWindow, serviceReadProfile, serviceWriteProfile,
      serviceReadTrigger, serviceWriteTrigger, serviceReadGlobals, serviceWriteGlobals, serviceCopy, serviceApply,
      serviceReadBank, serviceSetBank, serviceCancel, serviceRemoveFaults, serviceSetAlert,
      serviceReadQueue, serviceDrain, serviceLinkStatus, refuseCommand] at h
    repeat' split at h
  all_goals cases h
  all_goals simp [maxPayload, encodeWindow_length, encodeProfile_length, encodeTrigger_length,
    encodeGlobals_length, tableItem_length, bankReport, queueReport, countersReport]

/-- R137: what a DRAIN that waits has done: it found entries, and the marker names them. -/
theorem serviceDrain_waits {p : List Byte} {s t : State} (h : serviceDrain p s = .waiting t) :
    s.wq.entries ≠ [] ∧ t = s.setWq { s.wq with marker := some (markEntries s.wq) } := by
  unfold serviceDrain refuseCommand at h
  split at h
  · split at h
    · cases h
    · rename_i hne
      cases h
      exact ⟨by simpa using hne, rfl⟩
  · cases h

/-- R123: the entry before the counter's number is the last. -/
theorem numberedFrom_getLast : ∀ {l : List QueueEntry} {h n : Byte}, numberedFrom h l n →
    ∀ z, l.getLast? = some z → z.seq + 1 = n
  | [], _, _, _, _, hz => by cases hz
  | [e], h, n, ⟨hseq, _, hn⟩, z, hz => by
    obtain rfl : e = z := by simpa using hz
    rw [hseq]
    exact hn
  | _ :: f :: rest, _, _, ⟨_, _, hn⟩, z, hz => numberedFrom_getLast hn z (by simpa using hz)

/-- R123: the last of k consecutive numbers, by the one that follows it. -/
theorem byte_eq_of_succ {x h : Byte} {k : Nat} (hk : 0 < k) (hx : x + 1 = h + BitVec.ofNat 8 k) :
    x = h + BitVec.ofNat 8 (k - 1) := by
  obtain ⟨j, rfl⟩ : ∃ j, k = j + 1 := ⟨k - 1, by omega⟩
  rw [BitVec.ofNat_add, ← BitVec.add_assoc] at hx
  exact (BitVec.add_left_inj _).mp hx

/-- R137, R138: the marker over the entries present is sound. -/
theorem QueueSound.markerSound {q : WriteQueue} (h : QueueSound q) (hne : q.entries ≠ []) :
    MarkerSound q (markEntries q) := by
  obtain ⟨hdepth, hmark, hnum⟩ := h
  have hpos : 0 < q.entries.length := List.length_pos_iff.mpr hne
  have hlast : (markEntries q).last = headSeq q + BitVec.ofNat 8 (q.entries.length - 1) := by
    have hz := List.getLast?_eq_some_getLast hne
    refine byte_eq_of_succ hpos ?_
    rw [← numberedFrom_end hnum, markEntries, hz]
    exact numberedFrom_getLast hnum _ hz
  refine ⟨hpos, Nat.le_trans hdepth hmark, ?_, ?_, hlast⟩
  · simp [markEntries]
  · simp [markEntries]

/-- R166: a DRAIN whose check was accepted, in the buffer. -/
theorem drainBuffer_of_accepted {c : CommandBuffer} {check : Byte} (hop : c.opcode = opDrain) (hp : c.payload = [])
    (hcomplete : c.complete = true) (hsum : (c.addCheck check).sum = 0) : c.addCheck check = drainBuffer := by
  obtain ⟨op, length, payload, sum⟩ := c
  subst hop hp
  cases length with
  | none => cases hcomplete
  | some n =>
    have hn : n = 0 := by
      refine BitVec.eq_of_toNat_eq (Nat.le_zero.mp ?_)
      simpa [CommandBuffer.complete] using hcomplete
    subst hn
    simp only [CommandBuffer.addCheck] at hsum ⊢
    rw [hsum]
    rfl

/-- R169: an accepted command is answered at once, or is a DRAIN that waits under its marker. -/
theorem Conversation.service {s : State} {sel : Selection} {c : CommandBuffer} {check : Byte} (h : Conversation s)
    (hq : QueueSound s.wq) (hr : s.sl.receiver = .selected sel) (hcomplete : c.complete = true)
    (hsum : (c.addCheck check).sum = 0) :
    Conversation (carryOut (serviceOf c.opcode) sel (c.addCheck check) s) := by
  obtain ⟨hresp, ht, hheld, hm, -⟩ := (linkSound_selected_iff hr).mp h.2
  have hframe := serviceOf_frame c.opcode c.payload (startExecution sel (c.addCheck check) s)
  unfold carryOut
  split
  · rename_i t status answer hrun
    change serviceOf c.opcode c.payload _ = _ at hrun
    obtain ⟨hfits, hmarker⟩ := serviceOf_endsSoundly _ _ _ _ _ _ hrun
    rw [hrun] at hframe
    obtain ⟨-, -, -, -, -, -, -, -, -, hrec, -, -, hresp', ht', hheld', -⟩ := hframe
    refine .of_noMarker (hmarker.trans hm) ?_
    exact LinkSound.finished _ status (sel := sel) hrec (hresp'.trans hresp) (ht'.trans ht) (hheld'.trans hheld) hfits
  · rename_i t hrun
    change serviceOf c.opcode c.payload _ = _ at hrun
    obtain ⟨hop, hp⟩ := waits_isDrain hrun
    rw [hop] at hrun
    obtain ⟨hne, rfl⟩ := serviceDrain_waits hrun
    refine ⟨fun m hm => ?_, (linkSound_executing_iff (sel := sel) rfl).mpr
      ⟨hresp, ht, hheld, rfl, rfl, congrArg some (drainBuffer_of_accepted hop hp hcomplete hsum)⟩⟩
    cases hm
    exact hq.markerSound hne

/-! ### Every event -/

/-- The queue's numbering, which a removal and a DRAIN rely on, is kept beside marker and link. -/
theorem conversation_kept : KeptByEvents fun s => QueueSound s.wq ∧ Conversation s :=
  have hqueue := queueSound_kept
  { pending := fun s q h => ⟨hqueue.pending s q h.1, h.2⟩
    period := fun s h => ⟨hqueue.period s h.1, h.2⟩
    clock := fun s h hr => ⟨hqueue.clock s h.1 hr, h.2.1, h.2.2.advance⟩
    line := fun s l i r x h => ⟨hqueue.line s l i r x h.1, h.2⟩
    arrival := fun s a t h hr hi ha ht => ⟨hqueue.arrival s a t h.1 hr hi ha ht, h.2.arrival ht⟩
    hold := fun s h => ⟨hqueue.hold s h.1, .released s.straps s.sl.linkIn⟩
    release := fun s p l h hr => ⟨hqueue.release s p l h.1 hr, .released (sampleStraps p) l⟩
    setupDone := fun s t b h hp hb => ⟨hqueue.setupDone s t b h.1 hp hb, h.2⟩
    wait := fun s h hp hw => ⟨hqueue.wait s h.1 hp hw, h.2⟩
    countSetup := fun s h hp hc => ⟨hqueue.countSetup s h.1 hp hc, h.2⟩
    countRecovery := fun s h hp hc => ⟨hqueue.countRecovery s h.1 hp hc, h.2⟩
    countStrobe := fun s h hp hc => ⟨hqueue.countStrobe s h.1 hp hc, h.2⟩
    countWait := fun s h hp hc => ⟨hqueue.countWait s h.1 hp hc, h.2⟩
    beatDone := fun s t b x y h hp hb => ⟨hqueue.beatDone s t b x y h.1 hp hb, h.2.beatDone h.1 b x y⟩
    beatFailed := fun s t b h hp hb => ⟨hqueue.beatFailed s t b h.1 hp hb, h.2.beatFailed h.1 t b⟩
    recovery := fun s h hp => ⟨hqueue.recovery s h.1 hp, h.2.recovered⟩
    address := fun s v h hr => ⟨hqueue.address s v h.1 hr, h.2.address v⟩
    linkBreak := fun s h hr => ⟨hqueue.linkBreak s h.1 hr, h.2.broken⟩
    framingError := fun s h hr => ⟨hqueue.framingError s h.1 hr, h.2.framingError⟩
    gapTimeout := fun s h hg => ⟨hqueue.gapTimeout s h.1 hg, h.2.gapTimedOut hg⟩
    turnaroundEnd := fun s h ht => ⟨hqueue.turnaroundEnd s h.1 ht, h.2.turnaroundEnded ht⟩
    nextBit := fun s k b p h ht hb => ⟨hqueue.nextBit s k b p h.1 ht hb, h.2.nextBit ht hb⟩
    responseFrameEnd := fun s k b p h ht => ⟨hqueue.responseFrameEnd s k b p h.1 ht, h.2.frameSent ht⟩
    ignored := fun s h hr he => ⟨hqueue.ignored s h.1 hr he, h.2⟩
    opcode := fun s l b h hr h1 h2 => ⟨hqueue.opcode s l b h.1 hr h1 h2,
      h.2.collected h1 (CommandBuffer.sound_opcode b)⟩
    lengthFrame := fun s l c n h hr h1 h2 h3 h4 => ⟨hqueue.lengthFrame s l c n h.1 hr h1 h2 h3 h4,
      h.2.collected h1 (CommandBuffer.sound_length (h.2.buffer h1 h2) h3 h4)⟩
    payloadFrame := fun s l c n b h hr h1 h2 h3 h4 => ⟨hqueue.payloadFrame s l c n b h.1 hr h1 h2 h3 h4,
      h.2.collected h1 (CommandBuffer.sound_payload (h.2.buffer h1 h2) h3 h4 b)⟩
    badLength := fun s l c h hr h1 h2 => ⟨hqueue.badLength s l c h.1 hr h1 h2, h.2.ended h1 .badLength (.inl rfl)⟩
    badCheck := fun s l c h hr h1 h2 => ⟨hqueue.badCheck s l c h.1 hr h1 h2,
      h.2.checkRefused h1⟩
    service := fun s l c k h hr h1 h2 h3 h4 => ⟨hqueue.service s l c k h.1 hr h1 h2 h3 h4,
      h.2.service h.1 h1 h3 h4⟩ }

/-- Settles O56, by the one case split over a step, with the queue's numbering carried along. -/
theorem linkAndMarkerStaySound : Obligations.LinkAndMarkerStaySound :=
  fun _ _ hqueue hdrain hlink ht => (conversation_kept.step ⟨hqueue, hdrain, hlink⟩ ht).2

end Sys2Proof.Machine
end

section
/-! PROOFS. Overlap of physical bytes, and the beats it holds back (R131 to R134). -/
namespace Sys2Proof.Machine

/-- R91: the physical bytes of a transaction, from its physical start on. -/
theorem Txn.mem_bytes (t : Txn) (b : Nat) :
    b ∈ t.bytes ↔ t.physStart.toNat ≤ b ∧ b < t.physStart.toNat + t.len.bytes := by
  simp only [Txn.bytes, List.mem_map, List.mem_range]
  constructor
  · rintro ⟨i, hi, rfl⟩
    omega
  · rintro ⟨hlo, hhi⟩
    exact ⟨b - t.physStart.toNat, by omega, by omega⟩

/-- Settles O15: the walk over the bytes of one finds a byte that is also the other's. -/
theorem overlapIsASharedByte : Obligations.OverlapIsASharedByte := by
  intro t u
  simp only [Txn.overlaps, Bool.and_eq_true, beq_iff_eq, List.any_eq_true, List.contains_iff_mem, Txn.mem_bytes]

/-- While the port is granted to PP, the beat in progress is one of the ACTIVE record (R102, R118). -/
theorem active_of_portBeat {s : State} {t : Txn} {b : Beat} (hc : s.mp.current = some .port)
    (hb : currentBeat s = some (t, b)) : ∃ a collected, s.pp = .active a t collected := by
  unfold currentBeat currentTxn at hb
  rw [hc] at hb
  cases hpp : s.pp with
  | idle => simp [hpp] at hb
  | held a u w => simp [hpp] at hb
  | active a u collected =>
    simp only [hpp, Option.map_eq_some_iff, Prod.mk.injEq] at hb
    obtain ⟨-, -, rfl, -⟩ := hb
    exact ⟨a, collected, rfl⟩

/-- R132, R133: no entry overlaps a CARRIED access before which nothing stands. -/
theorem NothingBefore.overlaps_eq_false {t : Txn} {entries : List QueueEntry} (h : NothingBefore t entries)
    {e : QueueEntry} (he : e ∈ entries) : e.txn.overlaps t = false := by
  obtain ⟨-, hrelaxed, hordered⟩ := h
  cases ho : t.order with
  | relaxed =>
    have hnone := hrelaxed ho
    simp only [anyOverlap, List.any_eq_false, Bool.not_eq_true] at hnone
    exact hnone e he
  | ordered =>
    rw [hordered ho] at he
    cases he

/-- Settles O60: an ACTIVE access has nothing in the queue before it. -/
theorem noReadBeatOverAQueuedByte : Obligations.NoReadBeatOverAQueuedByte := by
  rintro s t b ⟨-, hport, -⟩ - hc hb
  obtain ⟨a, collected, hpp⟩ := active_of_portBeat hc hb
  rw [hpp] at hport
  obtain ⟨-, -, hbefore, -⟩ := hport
  exact ⟨fun _ e he => hbefore.overlaps_eq_false he, hbefore.2.2⟩

end Sys2Proof.Machine
end

section
/-! PROOFS. An address frame: the selection by value, or the value held over (R139, R162, R163). -/
namespace Sys2Proof.Machine

/-- R163: 31 selects every unit, a lower value the unit of that address. -/
theorem selectionOf_eq (unit : BitVec 5) (v : Byte) :
    selectionOf unit v =
      if v = 31 then .selected .broadcast
      else if v.toNat < 31 ∧ v.toNat = unit.toNat then .selected .addressed
      else .unselected := by
  have h31 : v.toNat = 31 ↔ v = 31 := (BitVec.toNat_inj (x := v) (y := 31))
  simp only [selectionOf, h31, Nat.lt_succ_iff]

theorem abandonDrain_eq (s : State) : abandonDrain s = s.setWq s.withoutDrain := by
  unfold abandonDrain State.withoutDrain
  cases s.sl.receiver
  all_goals rfl

/-- R163: while a response frame is being sent the address is held over. -/
theorem takeAddress_sending {s : State} {k b p : Nat} (ht : s.sl.transmitter = .sending k b p) (v : Byte) :
    takeAddress v s = s.setSl { s.sl with heldOver := some v } := by
  unfold takeAddress
  rw [ht]

/-- R139, R163: with no response frame being sent the conversation ends, a DRAIN with it, and the unit is selected. -/
theorem takeAddress_selects {s : State} (ht : s.sl.transmitter = .off ∨ s.sl.transmitter = .turnaround) (v : Byte) :
    takeAddress v s = (s.setWq s.withoutDrain).setSl
      { s.sl.clearConversation with receiver := selectionOf s.straps.unitAddress v } := by
  rw [← abandonDrain_eq]
  unfold takeAddress
  obtain ht | ht := ht
  all_goals rw [ht]

/-- R159: an address frame that a falling edge has begun is taken at the end of its stop bit. -/
theorem exec_addressFrame {s : State} (h : InFrame s) (v : Byte) :
    exec (.addressFrame v) s = .next (takeAddress v (frameEnded true s)) := by
  obtain ⟨hheld, hline⟩ := h
  change execAddressFrame v s = _
  simp only [execAddressFrame, whenSampling, hheld, hline, Bool.false_eq_true, if_false, if_true]

/-- Settles O26, by what the response transmitter is doing. -/
theorem addressFrameSelectsTheUnit : Obligations.AddressFrameSelectsTheUnit := by
  intro s v h
  rw [exec_addressFrame h]
  refine ⟨fun k b p ht => ?_, fun ht => ?_⟩
  · rw [takeAddress_sending (s := frameEnded true s) ht]
    rfl
  · rw [takeAddress_selects (s := frameEnded true s) ht, selectionOf_eq]
    rfl

end Sys2Proof.Machine
end

section
/-! PROOFS. READ_QUEUE, READ_LINK_STATUS and DRAIN: the reports with their clearing, and the drain marker (R136, R137,
R166, R169, R174, R191, R192, R194). -/
namespace Sys2Proof.Machine

/-! ### The reports (R136, R174, R191, R194) -/

/-- R136: the head's number, or the counter's where the queue is empty. -/
theorem headSeq_eq {q : WriteQueue} {head : Byte} (hhead : ∀ e rest, q.entries = e :: rest → head = e.seq)
    (hempty : q.entries = [] → head = q.nextSeq) : headSeq q = head := by
  unfold headSeq
  split
  · rename_i he
    exact (hempty he).symm
  · rename_i e rest he
    exact (hhead e rest he).symm

theorem serviceReadQueue_badValue {clear : Byte} (h : 2 ≤ clear.toNat) (s : State) :
    serviceReadQueue [clear] s = refuseCommand .badValue s := by
  simp only [serviceReadQueue, (readYesNo_eq_none_iff clear).mpr h]

theorem serviceReadQueue_kept (s : State) : serviceReadQueue [0] s = .ended s .ok (queueReport s.wq) := rfl

theorem serviceReadQueue_cleared (s : State) :
    serviceReadQueue [1] s =
      .ended (s.setWq { s.wq with highWater := s.wq.entries.length }) .ok (queueReport s.wq) := rfl

theorem serviceLinkStatus_badValue {clear : Byte} (h : 2 ≤ clear.toNat) (s : State) :
    serviceLinkStatus [clear] s = refuseCommand .badValue s := by
  simp only [serviceLinkStatus, (readYesNo_eq_none_iff clear).mpr h]

theorem serviceLinkStatus_kept (s : State) :
    serviceLinkStatus [0] s = .ended s .ok (countersReport s.sl.counters) := rfl

theorem serviceLinkStatus_cleared (s : State) :
    serviceLinkStatus [1] s =
      .ended (s.setSl { s.sl with counters := resetCounters }) .ok (countersReport s.sl.counters) := rfl

/-- The end of an execution does not look at the link counters. -/
theorem finish_withCounters (c : LinkCounters) (l : ServiceLink) (st : Straps) (status : Status) (p : List Byte) :
    ServiceLink.finish { l with counters := c } st status p =
      { ServiceLink.finish l st status p with counters := c } := by
  unfold ServiceLink.finish
  dsimp only
  split
  all_goals rfl

/-- R169, R174: a row whose execution changes the link counters alone answers at once. -/
theorem serviceRow_counted {s : State} {sel : Selection} {op : Byte} {p : List Byte} {isRow : CommandBuffer → Bool}
    {run : List Byte → State → ServiceResult} {status : Status} {answer : List Byte} {c : LinkCounters}
    (h : Collected s sel op p) (hrow : isRow (.collected op p) = true)
    (hrun : run p (s.executing sel op p) =
      .ended ((s.executing sel op p).setSl { (s.executing sel op p).sl with counters := c }) status answer) :
    serviceRow isRow run s = .next (s.setSl { s.sl.answered sel status answer with counters := c }) := by
  rw [serviceRow_collected h hrow, carryOut_ended hrun, finishExecution, State.setSl_sl, finish_withCounters,
    finish_executing]
  rfl

/-- Settles O48: each report is one execution, with a clear that is refused, no or yes. -/
theorem clearingReportsOfQueueAndLink : Obligations.ClearingReportsOfQueueAndLink := by
  refine ⟨fun s sel clear h head hhead hempty => ⟨fun hbad => ?_, fun hno => ?_, fun hyes => ?_⟩,
    fun s sel clear h => ⟨fun hbad => ?_, fun hno => ?_, fun hyes => ?_⟩⟩
  · exact serviceRow_refused h (hasOpcode_collected _ _) (serviceReadQueue_badValue hbad _)
  · subst hno
    rw [← headSeq_eq hhead hempty]
    exact serviceRow_ended (t := s.executing sel 0x40 [0]) h (hasOpcode_collected _ _) (serviceReadQueue_kept _) rfl
  · subst hyes
    rw [← headSeq_eq hhead hempty]
    exact serviceRow_ended h (hasOpcode_collected _ _) (serviceReadQueue_cleared _) rfl
  · exact serviceRow_refused h (hasOpcode_collected _ _) (serviceLinkStatus_badValue hbad _)
  · subst hno
    exact serviceRow_ended (t := s.executing sel 0x50 [0]) h (hasOpcode_collected _ _) (serviceLinkStatus_kept _) rfl
  · subst hyes
    exact serviceRow_counted h (hasOpcode_collected _ _) (serviceLinkStatus_cleared _)

/-! ### DRAIN (R137, R166, R169, R192) -/

theorem serviceDrain_empty {s : State} (h : s.wq.entries = []) : serviceDrain [] s = .ended s .ok [0, 0, 0] := by
  simp only [serviceDrain, h, List.isEmpty_nil, if_true]

/-- R137: the marker over the entries present, first to last. -/
theorem serviceDrain_marks {s : State} {e z : QueueEntry} {rest : List QueueEntry} (he : s.wq.entries = e :: rest)
    (hz : s.wq.entries.getLast? = some z) :
    serviceDrain [] s = .waiting (s.setWq { s.wq with
      marker := some { first := e.seq, last := z.seq, marked := rest.length + 1,
                       completed := 0, timedOut := 0 } }) := by
  have hmark : markEntries s.wq =
      { first := e.seq, last := z.seq, marked := rest.length + 1, completed := 0, timedOut := 0 } := by
    unfold markEntries headSeq
    rw [hz, he]
    rfl
  have hne : s.wq.entries.isEmpty = false := by rw [he]; rfl
  simp only [serviceDrain, hne, Bool.false_eq_true, if_false, hmark]

theorem carryOut_waiting {run : List Byte → State → ServiceResult} {sel : Selection} {c : CommandBuffer}
    {s t : State} (h : run c.payload (startExecution sel c s) = .waiting t) : carryOut run sel c s = t := by
  unfold carryOut
  rw [h]

/-- Settles O49, by whether the queue holds an entry. -/
theorem drainMarksTheEntriesPresent : Obligations.DrainMarksTheEntriesPresent := by
  refine fun s sel h => ⟨fun hempty => ?_, fun e rest he z hz => ?_⟩
  · exact serviceRow_ended (t := s.executing sel 0x41 []) h (hasOpcode_collected _ _) (serviceDrain_empty hempty) rfl
  · have hrun := serviceDrain_marks (s := s.executing sel 0x41 []) he hz
    have hrow := serviceRow_collected h (hasOpcode_collected 0x41 []) serviceDrain
    rw [carryOut_waiting hrun] at hrow
    exact hrow

end Sys2Proof.Machine
end

section
/-! PROOFS. The fault log: what each of its operations does, and that its bounds, its overflow flag and ALERT stay
as R146, R147 and R154 say. -/
namespace Sys2Proof.Machine

/-! ### ALERT (R154) -/

/-- ALERT is made to follow its conditions, so the bound and the overflow flag are all a log has to keep. -/
theorem LogSound.withAlert {l : FaultLog} (hroom : l.records.length ≤ logCapacity)
    (hoverflow : l.overflow = true → l.records ≠ []) : LogSound l.withAlert :=
  ⟨hroom, hoverflow, rfl⟩

/-- R154: a sound log has ALERT as it should be already. -/
theorem LogSound.withAlert_eq {l : FaultLog} (h : LogSound l) : l.withAlert = l := by
  obtain ⟨-, -, halert⟩ := h
  rw [FaultLog.withAlert, ← halert]

/-- R154: a log that holds a record has ALERT as the enable says. -/
theorem FaultLog.withAlert_of_record {l : FaultLog} (h : l.records ≠ []) :
    l.withAlert = { l with alert := l.alertEnable } := by
  rw [FaultLog.withAlert, List.isEmpty_eq_false_iff.mpr h]
  rfl

/-! ### A raised fault (R145 to R148) -/

/-- R145, R146: with room the fault joins the tail, and a log that holds a record has ALERT as the enable says. -/
theorem FaultLog.raise_of_room {l : FaultLog} (h : l.records.length < logCapacity) (c : FaultCause)
    (k : AccessKind) (n : Len) (a : LAddr) :
    l.raise c k n a = { l with
      records := l.records ++ [{ seq := l.nextSeq, cause := c, access := k, len := n, start := a }]
      nextSeq := l.nextSeq + 1, alert := l.alertEnable } := by
  rw [FaultLog.raise, if_pos h, FaultLog.withAlert_of_record (by simp)]

theorem FaultLog.records_ne_nil_of_full {l : FaultLog} (h : ¬ l.records.length < logCapacity) : l.records ≠ [] :=
  fun hnil => h (by simp [hnil, logCapacity])

/-- R147: a sound log without room stays sound when it loses a fault. -/
theorem LogSound.lost {l : FaultLog} (hl : LogSound l) (h : ¬ l.records.length < logCapacity) :
    LogSound { l with overflow := true, nextSeq := l.nextSeq + 1 } := by
  obtain ⟨hbound, -, halert⟩ := hl
  exact ⟨hbound, fun _ => FaultLog.records_ne_nil_of_full h, halert⟩

/-- R147, R154: without room the fault is lost, and a sound log has ALERT as before. -/
theorem FaultLog.raise_of_full {l : FaultLog} (hl : LogSound l) (h : ¬ l.records.length < logCapacity)
    (c : FaultCause) (k : AccessKind) (n : Len) (a : LAddr) :
    l.raise c k n a = { l with overflow := true, nextSeq := l.nextSeq + 1 } := by
  rw [FaultLog.raise, if_neg h, (hl.lost h).withAlert_eq]

/-- Settles O47, by whether the log has room. -/
theorem raisedFaultIsRecordedOrLost : Obligations.RaisedFaultIsRecordedOrLost :=
  fun _ c k n a => ⟨fun hroom => FaultLog.raise_of_room hroom c k n a,
    fun hl hfull => FaultLog.raise_of_full hl (Nat.not_lt.mpr (Nat.le_of_eq hfull.symm)) c k n a⟩

/-! ### The operations keep the log sound -/

theorem LogSound.reset : LogSound resetLog :=
  ⟨Nat.zero_le _, nofun, rfl⟩

theorem LogSound.raise {l : FaultLog} (h : LogSound l) (c : FaultCause) (k : AccessKind) (n : Len) (a : LAddr) :
    LogSound (l.raise c k n a) := by
  by_cases hroom : l.records.length < logCapacity
  · rw [FaultLog.raise_of_room hroom]
    refine ⟨?_, by simp, by simp⟩
    rw [List.length_append, List.length_singleton]
    exact hroom
  · rw [FaultLog.raise_of_full h hroom]
    exact h.lost hroom

/-- R150: the oldest records go, and the overflow flag with the last of them. -/
theorem LogSound.remove {l : FaultLog} (h : LogSound l) (n : Nat) : LogSound (l.remove n) := by
  obtain ⟨hbound, -, -⟩ := h
  have hfewer : (l.records.drop n).length ≤ l.records.length := by
    rw [List.length_drop]
    exact Nat.sub_le _ _
  refine .withAlert (Nat.le_trans hfewer hbound) fun hoverflow hnil => ?_
  have hempty : (l.records.drop n).isEmpty = true := List.isEmpty_iff.mpr hnil
  simp [hempty] at hoverflow

theorem LogSound.setEnable {l : FaultLog} (h : LogSound l) (enable : Bool) : LogSound (l.setEnable enable) := by
  obtain ⟨hbound, hoverflow, -⟩ := h
  exact .withAlert hbound hoverflow

end Sys2Proof.Machine
end

section
/-! PROOFS. READ_FAULTS: its report, and the 16 bytes of a fault record (R149, R188, R200, R202). -/
namespace Sys2Proof.Machine

theorem accessCode_eq_kindCode (k : AccessKind) : accessCode k = kindCode k := by
  cases k
  all_goals rfl

/-- R200: the 16 bytes in the order of the format. -/
theorem encodeFault_eq (n : Byte) (c : FaultCause) (k : AccessKind) (l : Len) (a : LAddr) :
    encodeFault { seq := n, cause := c, access := k, len := l, start := a } =
      [n, c.code, yesNo c.fromQueue] ++ accessBytes k l a ++ [windowByte c.window, c.selectByte] ++
        leBytes 4 c.physNat ++ c.tailBytes := by
  rw [encodeFault, leBytes_logical, accessBytes, accessCode_eq_kindCode]
  rfl

/-- R200: an absent physical address. -/
theorem leBytes_absent : leBytes 4 0 = [0, 0, 0, 0] := by
  decide

/-- R149: the count and the overflow flag, then the records. -/
theorem faultReport_eq (l : FaultLog) :
    faultReport l = [BitVec.ofNat 8 (min 3 l.records.length), if l.overflow then 1 else 0] ++
      ((l.records.take 3).map encodeFault).flatten := by
  rw [← List.flatMap_def]
  rfl

theorem serviceReadFaults_ended (s : State) : serviceReadFaults [] s = .ended s .ok (faultReport s.fl) := rfl

/-- Settles O44: the report is one execution, and the bytes of each kind are those of the format with the fields the
kind has. -/
theorem readFaultsReportsTheOldestRecords : Obligations.ReadFaultsReportsTheOldestRecords := by
  refine ⟨fun s sel h => ?_, fun n k l a => ⟨?_, ?_, fun w => ?_, fun w => ?_, fun q w sel p planned done => ?_,
    fun w c j => ?_⟩⟩
  · rw [← faultReport_eq]
    exact serviceRow_ended (t := s.executing sel 0x30 []) h (hasOpcode_collected _ _) (serviceReadFaults_ended _) rfl
  case refine_6 =>
    rw [encodeFault_eq, FaultCause.physNat, leBytes_physical]
    rfl
  all_goals
    rw [encodeFault_eq, FaultCause.physNat, leBytes_absent]
    rfl

end Sys2Proof.Machine
end

section
/-! PROOFS. The fault log at every event: what can raise a fault, and that the log stays sound (R142, R146, R147,
R154). -/
namespace Sys2Proof.Machine

/-! ### Events that raise faults -/

theorem LogSound.raiseFault {s : State} (h : LogSound s.fl) (c : FaultCause) (k : AccessKind) (n : Len)
    (a : LAddr) : LogSound (raiseFault c k n a s).fl :=
  h.raise c k n a

theorem LogSound.refuseAccess {s : State} (h : LogSound s.fl) (c : FaultCause) (a : Access) :
    LogSound (refuseAccess c a s).fl :=
  h.raiseFault c a.kind a.len a.start

/-- R26, R34: a MISS raises its fault under either miss policy. -/
theorem LogSound.missAccess {s : State} (h : LogSound s.fl) (a : Access) : LogSound (missAccess a s).fl := by
  unfold Machine.missAccess
  split
  all_goals exact h.raiseFault .miss a.kind a.len a.start

/-- R63: a capture out of range raises BANK_RANGE, one in range leaves the log. -/
theorem LogSound.captureWrite {s : State} (h : LogSound s.fl) (a : Access) : LogSound (captureWrite a s).fl := by
  refine captureWrite_keeps (P := fun t => LogSound t.fl) a (fun t c j ht => ?_) s h
  unfold captureOne
  split
  · exact ht
  · exact ht.raiseFault _ .write a.len a.start

theorem LogSound.arrival {s t : State} {a : Access} (h : LogSound s.fl) (ht : takeArrival a s = .next t) :
    LogSound t.fl := by
  have harrived : LogSound (arrived s a).fl := h
  obtain ⟨cause, rfl⟩ | rfl | ⟨w, p, rfl⟩ := takeArrival_cases ht
  · exact harrived.refuseAccess cause a
  · exact harrived.missAccess a
  · simpa using harrived.captureWrite a

/-- R14, R129: a timeout raises its fault for whichever block owns the beat. -/
theorem LogSound.ownerTimeout {s : State} (h : LogSound s.fl) (t : Txn) (b : Beat) :
    LogSound (ownerTimeout t b s).fl := by
  have hraised (q : Bool) : LogSound (raiseTimeout t b q s).fl := h.raiseFault _ _ _ _
  unfold Machine.ownerTimeout
  split
  · exact h
  · exact hraised false
  · simpa using hraised true

/-! ### Service commands -/

/-- The execution keeps the log sound, whatever its payload. -/
def KeepsLog (run : List Byte → State → ServiceResult) : Prop :=
  ∀ p s, LogSound s.fl → LogSound (run p s).state.fl

theorem serviceRemoveFaults_log : KeepsLog serviceRemoveFaults := by
  intro p s h
  unfold serviceRemoveFaults refuseCommand
  repeat' split
  case isTrue => exact h.remove _
  all_goals exact h

theorem serviceSetAlert_log : KeepsLog serviceSetAlert := by
  intro p s h
  unfold serviceSetAlert refuseCommand
  repeat' split
  case h_2 => exact h.setEnable _
  all_goals exact h

/-- R150, R153: every execution but REMOVE_FAULTS and SET_ALERT leaves the log. -/
theorem serviceOf_log (op : Byte) : KeepsLog (serviceOf op) := by
  refine serviceOf_keeps (fun _ _ h => h) ?_ op
  simp only [serviceTable, List.forall_mem_cons, List.not_mem_nil, false_implies, implies_true, and_true,
    serviceRemoveFaults_log, serviceSetAlert_log, true_and]
  and_intros
  all_goals
    intro p s h
    simp only [serviceIdentify, serviceReadWindow, serviceWriteWindow, serviceReadProfile, serviceWriteProfile,
      serviceReadTrigger, serviceWriteTrigger, serviceReadGlobals, serviceWriteGlobals, serviceCopy, serviceApply,
      serviceReadBank, serviceSetBank, serviceCancel, serviceReadFaults, serviceReadQueue, serviceDrain,
      serviceLinkStatus, setBank, refuseCommand]
    repeat' split
  all_goals exact h

/-! ### The invariant -/

/-- Arrivals, timeouts, RESET and the two commands of the log alone touch it. -/
theorem logSound_kept : KeptByEvents fun s => LogSound s.fl where
  pending _ _ h := h
  period _ h := h
  clock _ h _ := h
  line _ _ _ _ _ h := h
  arrival _ _ _ h _ _ _ ht := h.arrival ht
  hold _ _ := .reset
  release _ _ _ _ _ := .reset
  setupDone _ _ _ h _ _ := h
  wait _ h _ _ := h
  countSetup _ h _ _ := h
  countRecovery _ h _ _ := h
  countStrobe _ h _ _ := h
  countWait _ h _ _ := h
  beatDone _ _ _ _ _ h _ _ := by simpa using h
  beatFailed s t b h _ _ := by
    have hended : LogSound (s.setMp (s.mp.endStrobe .timeout)).fl := h
    simpa [beatFailed] using hended.ownerTimeout t b
  recovery _ h _ := by simpa using h
  address _ _ h _ := by simpa using h
  linkBreak _ h _ := by simpa using h
  framingError _ h _ := h
  gapTimeout _ h _ := h
  turnaroundEnd _ h _ := h
  nextBit _ _ _ _ h _ _ := h
  responseFrameEnd _ _ _ _ h _ := by simpa using h
  ignored _ h _ _ := h
  opcode _ _ _ h _ _ _ := h
  lengthFrame _ _ _ _ h _ _ _ _ _ := h
  payloadFrame _ _ _ _ _ h _ _ _ _ _ := h
  badLength _ _ _ h _ _ _ := by simpa using h
  badCheck _ _ _ h _ _ _ := by simpa using h
  service _ _ c _ h _ _ _ _ _ :=
    carryOut_keeps (P := fun u => LogSound u.fl) h (fun p u hu => serviceOf_log c.opcode p u hu) fun _ _ _ hu => hu

/-- Settles O53: every event keeps it, by the one case split over a step. -/
theorem logAndAlertStaySound : Obligations.LogAndAlertStaySound :=
  fun _ _ h ht => logSound_kept.step h ht

end Sys2Proof.Machine
end

section
/-! PROOFS. The line of the service link: edges and levels, false starts, breaks, framing errors, and the gap timeout
that an overdue timer brings (R159 to R161, R168, R173, R174). -/
namespace Sys2Proof.Machine

/-! ### Events that end a frame (R159) -/

/-- A frame that a falling edge has begun is taken at the end of its stop bit. -/
theorem InFrame.whenSampling_eq {s : State} (h : InFrame s) (r : Result) : whenSampling s r = r := by
  obtain ⟨hheld, hline⟩ := h
  rw [whenSampling, if_neg (by simp [hheld]), if_pos hline]

/-- The end of a frame is the frame heard at the level of its stop bit. -/
theorem frameEnded_eq (stop : Bool) (s : State) : frameEnded stop s = s.setSl (s.sl.heard stop) := rfl

theorem exec_dataFrame {s : State} (h : InFrame s) (b : Byte) :
    exec (.dataFrame b) s = .next (takeData b (frameEnded true s)) :=
  h.whenSampling_eq _

theorem exec_linkBreak {s : State} (h : InFrame s) : exec .linkBreak s = .next (takeBreak (frameEnded false s)) :=
  h.whenSampling_eq _

/-- R161: a frame with a low stop bit is a break exactly when its mark bit is 0 and its data is 0. -/
theorem isBreakPattern_eq_false {mark : Bool} {data : Byte} (h : mark = true ∨ data ≠ 0) :
    isBreakPattern mark data = false := by
  obtain hmark | hdata := h
  · simp [isBreakPattern, hmark]
  · rw [isBreakPattern, beq_false_of_ne hdata, Bool.and_false]

theorem exec_framingError {s : State} (h : InFrame s) {mark : Bool} {data : Byte} (hd : mark = true ∨ data ≠ 0) :
    exec (.framingError mark data) s = .next (takeFramingError (frameEnded false s)) := by
  change execFramingError mark data s = _
  rw [execFramingError, if_neg (by simp [isBreakPattern_eq_false hd]), h.whenSampling_eq]

/-! ### The gap timeout (R168) -/

theorem takeGapTimeout_eq (s : State) : takeGapTimeout s = s.setSl s.sl.gapTimedOut := rfl

/-- The gap timer is stopped or short of 40 bit periods. -/
def GapShort (s : State) : Prop :=
  ∀ n, s.sl.gapTimer = some n → n < 40 * (32 * 2 ^ s.straps.rateValue)

/-- Within a frame the gap timeout is not taken. -/
theorem overdueGap_of_sampling {s : State} (h : s.sl.line = .sampling) : overdueGap s = s := by
  unfold overdueGap
  rw [h]

theorem overdueGap_of_short {s : State} (h : GapShort s) : overdueGap s = s := by
  cases hg : s.sl.gapTimer with
  | none =>
    unfold overdueGap
    rw [hg]
    cases s.sl.line
    all_goals rfl
  | some n =>
    have hshort : ¬ gapLimit s.straps ≤ n := Nat.not_le.mpr (h n hg)
    unfold overdueGap
    rw [hg]
    cases s.sl.line with
    | sampling => rfl
    | hunt | waitHigh => exact if_neg hshort

theorem overdueGap_of_passed {s : State} {n : Nat} (hline : s.sl.line ≠ .sampling) (hg : s.sl.gapTimer = some n)
    (h : 40 * (32 * 2 ^ s.straps.rateValue) ≤ n) : overdueGap s = s.setSl s.sl.gapTimedOut := by
  have hpassed : gapLimit s.straps ≤ n := h
  unfold overdueGap
  rw [hg]
  cases hl : s.sl.line with
  | sampling => exact absurd hl hline
  | hunt | waitHigh => exact if_pos hpassed

theorem NoGapTimeout.overdueGap_eq {s : State} (h : NoGapTimeout s) : overdueGap s = s := by
  obtain hline | hshort := h
  · exact overdueGap_of_sampling hline
  · exact overdueGap_of_short hshort

theorem NoGapTimeout.short {s : State} (h : NoGapTimeout s) (hline : s.sl.line ≠ .sampling) : GapShort s :=
  h.resolve_left hline

theorem exec_gapTimeout {s : State} {n : Nat} (hg : s.sl.gapTimer = some n) (hline : s.sl.line ≠ .sampling) :
    exec .gapTimeout s = .next (takeGapTimeout s) :=
  if_pos ⟨by rw [hg]; rfl, hline⟩

/-! ### Edges and levels as events (R159, R160) -/

/-- R160: before the start bit is decided a false start ends the frame, with an overdue gap timeout taken. -/
theorem exec_falseStart {s : State} (h : InFrame s) (hlen : s.sl.samples.length < 3) :
    exec .falseStart s = .next (overdueGap (s.setSl (s.sl.heard true))) := by
  obtain ⟨hheld, hline⟩ := h
  change execFalseStart s = _
  rw [execFalseStart, if_neg (by simp [hheld]), if_pos hline, if_pos hlen, frameEnded_eq]

theorem exec_fallingEdge_hunt {s : State} (hheld : s.resetHeld = false) (hline : s.sl.line = .hunt) :
    exec .fallingEdge s = .next (s.setSl { s.sl.beginFrame with linkIn := false }) := by
  change execFallingEdge s = _
  rw [execFallingEdge, if_neg (by simp [hheld]), hline]

theorem exec_fallingEdge_sampling {s : State} (hheld : s.resetHeld = false) (hline : s.sl.line = .sampling) :
    exec .fallingEdge s = .next (s.setSl { s.sl with linkIn := false }) := by
  change execFallingEdge s = _
  rw [execFallingEdge, if_neg (by simp [hheld]), hline]

theorem exec_fallingEdge_waitHigh {s : State} (hheld : s.resetHeld = false) (hline : s.sl.line = .waitHigh) :
    exec .fallingEdge s = .refused .inputStillLow := by
  change execFallingEdge s = _
  rw [execFallingEdge, if_neg (by simp [hheld]), hline]

theorem exec_linkInputHigh_waitHigh {s : State} (hheld : s.resetHeld = false) (hline : s.sl.line = .waitHigh) :
    exec .linkInputHigh s = .next (s.setSl (s.sl.heard true)) := by
  change execLinkInputHigh s = _
  rw [execLinkInputHigh, if_neg (by simp [hheld]), hline]
  rfl

theorem exec_linkInputHigh_other {s : State} (hheld : s.resetHeld = false) (hline : s.sl.line ≠ .waitHigh) :
    exec .linkInputHigh s = .next (s.setSl { s.sl with linkIn := true }) := by
  change execLinkInputHigh s = _
  rw [execLinkInputHigh, if_neg (by simp [hheld])]
  cases hl : s.sl.line with
  | waitHigh => exact absurd hl hline
  | hunt | sampling => rfl

/-- R175: while RESET is held the link samples no input. -/
theorem exec_lineEvent_of_held {s : State} (h : s.resetHeld = true) :
    exec .fallingEdge s = .next s ∧ exec .linkInputHigh s = .next s :=
  ⟨if_pos h, if_pos h⟩

/-! ### Levels in a period (R159) -/

/-- The period's level stands on the input before the receiver looks at it. -/
theorem receiverPeriod_eq (level : Bool) (s : State) :
    receiverPeriod level s = overdueGap (receiveLevel s.sl.linkIn level (overdueGap (s.withInput level))) := rfl

theorem NoGapTimeout.receiverPeriod_eq {s : State} (h : NoGapTimeout s) (level : Bool) :
    receiverPeriod level s = overdueGap (receiveLevel s.sl.linkIn level (s.withInput level)) := by
  have hinput : NoGapTimeout (s.withInput level) := h
  rw [Machine.receiverPeriod_eq, hinput.overdueGap_eq]

theorem receiveLevel_edge {s : State} (hline : s.sl.line = .hunt) :
    receiveLevel true false s = s.setSl s.sl.beginFrame := by
  unfold receiveLevel
  rw [hline]
  rfl

theorem receiveLevel_noEdge {s : State} {prev level : Bool} (hline : s.sl.line = .hunt)
    (h : prev = false ∨ level = true) : receiveLevel prev level s = s := by
  have hnone : ¬ (prev && !level) = true := by
    obtain rfl | rfl := h
    all_goals simp
  unfold receiveLevel
  rw [hline]
  exact if_neg hnone

theorem receiveLevel_waitHigh {s : State} (prev level : Bool) (hline : s.sl.line = .waitHigh) :
    receiveLevel prev level s = if level then s.setSl (s.sl.closeFrame true) else s := by
  unfold receiveLevel
  rw [hline]

/-- Settles O24: each event by its equation; in a period, by the line state and the level. -/
theorem lineEventsMoveTheFrameReceiver : Obligations.LineEventsMoveTheFrameReceiver := by
  refine ⟨fun s => ⟨exec_fallingEdge_hunt, exec_fallingEdge_sampling, exec_fallingEdge_waitHigh,
    exec_linkInputHigh_waitHigh, exec_linkInputHigh_other, fun h hlen hshort => ?_, fun h hlen n hg hn => ?_,
    exec_lineEvent_of_held⟩, fun s hgap => ⟨fun hline hin => ?_, fun level hline hlevel => ?_, fun hline => ?_,
    fun hline => ?_⟩⟩
  · have hafter : GapShort (s.setSl (s.sl.heard true)) := hshort
    rw [exec_falseStart h hlen, overdueGap_of_short hafter]
    rfl
  · rw [exec_falseStart h hlen,
      overdueGap_of_passed (s := s.setSl (s.sl.heard true)) LineState.noConfusion hg hn]
    rfl
  · rw [hgap.receiverPeriod_eq, hin, receiveLevel_edge (s := s.withInput false) hline, overdueGap_of_sampling rfl]
    rfl
  · have hafter : NoGapTimeout (s.withInput level) := hgap
    rw [hgap.receiverPeriod_eq, receiveLevel_noEdge (s := s.withInput level) hline hlevel, hafter.overdueGap_eq]
    rfl
  · have hafter : GapShort (s.setSl (s.sl.heard true)) := hgap.short (by simp [hline])
    rw [hgap.receiverPeriod_eq, receiveLevel_waitHigh _ _ (s := s.withInput true) hline, if_pos rfl]
    exact overdueGap_of_short hafter
  · have hafter : NoGapTimeout (s.withInput false) := hgap
    rw [hgap.receiverPeriod_eq, receiveLevel_waitHigh _ _ (s := s.withInput false) hline,
      if_neg Bool.false_ne_true, hafter.overdueGap_eq]
    rfl

/-! ### The gap timeout of a period (R168) -/

/-- R168: an overdue timeout is taken before the receiver looks at its input, which is the period of the link after
the timeout. -/
theorem receiverPeriod_of_passed {s : State} {n : Nat} (hg : s.sl.gapTimer = some n) (hline : s.sl.line ≠ .sampling)
    (h : 40 * (32 * 2 ^ s.straps.rateValue) ≤ n) (level : Bool) :
    receiverPeriod level s = receiverPeriod level (s.setSl s.sl.gapTimedOut) := by
  have hstopped : NoGapTimeout (s.setSl s.sl.gapTimedOut) := Or.inr fun _ hnone => by cases hnone
  rw [hstopped.receiverPeriod_eq, receiverPeriod_eq, overdueGap_of_passed (s := s.withInput level) hline hg h]
  rfl

/-- Settles O27: each event by its equation, the timeout of a period by that of the link it leaves. -/
theorem breakFramingErrorAndGapTimeout : Obligations.BreakFramingErrorAndGapTimeout := by
  refine ⟨fun s h => ⟨?_, fun mark data hd => ?_⟩, fun s n hg hline => ?_,
    fun s n level hg hline hn => receiverPeriod_of_passed hg hline hn level⟩
  · rw [exec_linkBreak h, takeBreak, abandonDrain_eq]
    rfl
  · rw [exec_framingError h hd]
    rfl
  · rw [exec_gapTimeout hg hline]
    rfl

end Sys2Proof.Machine
end

section
/-! PROOFS. The frame sampled from the link input: sampling instants, majority decisions, and the frame taken by its
kind (R158 to R161, R168, R195). -/
namespace Sys2Proof.Machine

/-! ### Decided bits and the data of a frame (R159, R160, R195) -/

/-- R160: a majority of three samples outvotes one that disagrees. -/
theorem majority_noisy (b : Bool) (flipped : Option (Fin 3)) :
    majority (if flipped = some 0 then !b else b) (if flipped = some 1 then !b else b)
      (if flipped = some 2 then !b else b) = b := by
  revert b flipped
  decide

theorem decidedBits_noisy : ∀ (bits : List Bool) (noise : List (Option (Fin 3))), noise.length = bits.length →
    decidedBits ((bits.zip noise).flatMap fun bn =>
      (List.finRange 3).map fun k => if bn.2 = some k then !bn.1 else bn.1) = bits
  | [], [], _ => rfl
  | b :: bits, flipped :: noise, h => by
    have ih := decidedBits_noisy bits noise (Nat.succ.inj h)
    have hthree : List.finRange 3 = [0, 1, 2] := rfl
    simp only [hthree, List.map_cons, List.map_nil] at ih ⊢
    simp only [List.zip_cons_cons, List.flatMap_cons, List.cons_append, List.nil_append, decidedBits,
      majority_noisy, ih]

/-- The low n bits of a number, least significant first, are those of its remainder by 2^n. -/
theorem byteOfBits_testBit : ∀ n m : Nat, byteOfBits ((List.range n).map m.testBit) = m % 2 ^ n
  | 0, m => by simp [byteOfBits, Nat.mod_one]
  | n + 1, m => by
    have hlow : (m.testBit 0).toNat = m % 2 := by rw [Nat.toNat_testBit, Nat.pow_zero, Nat.div_one]
    have hhigh : (List.range n).map (fun k => m.testBit (k + 1)) = (List.range n).map (m / 2).testBit :=
      List.map_congr_left fun k _ => Nat.testBit_succ m k
    rw [List.range_succ_eq_map, List.map_cons, List.map_map, byteOfBits]
    calc (m.testBit 0).toNat + 2 * byteOfBits ((List.range n).map (fun k => m.testBit (k + 1)))
        = m % 2 + 2 * (m / 2 % 2 ^ n) := by rw [hlow, hhigh, byteOfBits_testBit n (m / 2)]
      _ = m % 2 ^ (n + 1) := by rw [Nat.pow_succ', Nat.mod_mul]

theorem byteOfBits_getLsbD (data : Byte) : byteOfBits ((List.range 8).map data.getLsbD) = data.toNat := by
  have hbits : data.getLsbD = data.toNat.testBit := rfl
  rw [hbits, byteOfBits_testBit, Nat.mod_eq_of_lt data.isLt]

/-- R161, R195: the kind of a frame with this start bit, data, mark bit and stop bit. -/
theorem frameKind_eq (start mark stop : Bool) (data : Byte) :
    frameKind ([start] ++ (List.range 8).map data.getLsbD ++ [mark, stop]) = classifyFrame stop mark data := by
  have hdata : frameData ([start] ++ (List.range 8).map data.getLsbD ++ [mark, stop]) = data := by
    change BitVec.ofNat 8 (byteOfBits ((List.range 8).map data.getLsbD)) = data
    rw [byteOfBits_getLsbD, BitVec.ofNat_toNat, BitVec.setWidth_eq]
  rw [frameKind, hdata]
  rfl

theorem classifyFrame_framingError {mark : Bool} {data : Byte} (h : mark = true ∨ data ≠ 0) :
    classifyFrame false mark data = .framingError := by
  rw [classifyFrame, if_neg Bool.false_ne_true, if_neg (by simp [isBreakPattern_eq_false h])]

/-! ### Sampling instants (R158, R159) -/

/-- The instants at which the receiver samples are those of R159. -/
theorem isSampleInstant_iff (st : Straps) (t : Nat) : isSampleInstant st t = true ↔ SampledAt st t := by
  obtain ⟨q, hq⟩ : ∃ q, 2 * 2 ^ st.rateValue = q := ⟨_, rfl⟩
  have hbit : 32 * 2 ^ st.rateValue = 16 * q := by omega
  have hpos : 0 < q := hq ▸ Nat.mul_pos (by omega) (Nat.two_pow_pos _)
  have hinstant : isSampleInstant st t = true ↔ t % q = 0 ∧ 7 ≤ t / q % 16 ∧ t / q % 16 ≤ 9 := by
    rw [isSampleInstant, sixteenth, hq, Bool.and_eq_true, beq_iff_eq, decide_eq_true_iff]
  have hscale (k j : Nat) : t * 16 = (16 * k + j) * (16 * q) ↔ t = (16 * k + j) * q := by
    rw [Nat.mul_left_comm, Nat.mul_comm t, Nat.mul_right_inj (by decide)]
  rw [hinstant, SampledAt]
  simp only [hbit, hscale]
  constructor
  · rintro ⟨hmod, hlow, hhigh⟩
    refine ⟨t / q / 16, t / q % 16, hlow, hhigh, ?_⟩
    rw [Nat.div_add_mod, Nat.div_mul_cancel (Nat.dvd_of_mod_eq_zero hmod)]
  · rintro ⟨k, j, hlow, hhigh, rfl⟩
    rw [Nat.mul_mod_left, Nat.mul_div_cancel _ hpos]
    omega

/-! ### The receiver within a frame (R159, R160) -/

/-- The level of the period taken as the next sample. -/
def State.sampled (s : State) (level : Bool) : State :=
  s.setSl { s.sl with linkIn := level, samples := s.sl.samples ++ [level] }

theorem receiveLevel_between {s : State} (prev level : Bool) (hline : s.sl.line = .sampling)
    (h : ¬ SampledAt s.straps s.sl.rxTime) : receiveLevel prev level s = s := by
  unfold receiveLevel
  rw [hline]
  exact if_neg fun hi => h ((isSampleInstant_iff _ _).mp hi)

theorem receiverPeriod_between {s : State} (level : Bool) (hline : s.sl.line = .sampling)
    (h : ¬ SampledAt s.straps s.sl.rxTime) : receiverPeriod level s = s.withInput level := by
  rw [NoGapTimeout.receiverPeriod_eq (Or.inl hline), receiveLevel_between (s := s.withInput level) _ _ hline h,
    overdueGap_of_sampling (s := s.withInput level) hline]

/-- R159: at a sampling instant the period is the sample and what follows from it. -/
theorem receiverPeriod_sampled {s : State} (level : Bool) (hline : s.sl.line = .sampling)
    (h : SampledAt s.straps s.sl.rxTime) : receiverPeriod level s = overdueGap (afterSample (s.sampled level)) := by
  have hreceive : receiveLevel s.sl.linkIn level (s.withInput level) = afterSample (s.sampled level) := by
    unfold receiveLevel
    rw [show (s.withInput level).sl.line = .sampling from hline]
    exact if_pos ((isSampleInstant_iff _ _).mpr h)
  rw [NoGapTimeout.receiverPeriod_eq (Or.inl hline), hreceive]

@[simp] theorem State.sampled_length (s : State) (level : Bool) :
    (s.sampled level).sl.samples.length = s.sl.samples.length + 1 :=
  List.length_append

theorem afterSample_more {s : State} (hstart : s.sl.samples.length ≠ 3 ∨ decidedBits s.sl.samples = [false])
    (hlast : s.sl.samples.length ≠ 33) : afterSample s = s := by
  have hkept : ¬ (s.sl.samples.length = 3 ∧ decidedBits s.sl.samples = [true]) := by
    rintro ⟨hlen, htrue⟩
    obtain hne | hfalse := hstart
    · exact hne hlen
    · simp [hfalse] at htrue
  rw [afterSample, if_neg hkept, if_neg hlast]

/-- R160: a start bit decided 1 is a false start. -/
theorem afterSample_falseStart {s : State} (hlen : s.sl.samples.length = 3) (h : decidedBits s.sl.samples = [true]) :
    afterSample s = falseStart s :=
  if_pos ⟨hlen, h⟩

/-- R159, R161: the frame is taken after its last sample. -/
theorem afterSample_last {s : State} (hlen : s.sl.samples.length = 33) :
    afterSample s = takeFrame (frameKind (decidedBits s.sl.samples))
      (s.setSl (s.sl.closeFrame (stopBit (decidedBits s.sl.samples)))) := by
  rw [afterSample, if_neg (by omega), if_pos hlen]

/-- R168: a frame taken leaves no gap timer that is overdue. -/
theorem takeFrame_gapShort {s : State} (h : LinkSound s.sl s.wq.marker) (k : FrameKind) : GapShort (takeFrame k s) := by
  intro n hn
  rw [takeFrame_gapTimer h k n hn]
  exact Nat.mul_pos (by decide) (Nat.mul_pos (by decide) (Nat.two_pow_pos _))

/-- R159, R161: the last sample's period is the frame of its kind ended and taken, but for the level on the input,
which that frame does not look at. -/
theorem receiverPeriod_last {s : State} {level start mark stop : Bool} {data : Byte} (hline : s.sl.line = .sampling)
    (hsound : LinkSound s.sl s.wq.marker) (hat : SampledAt s.straps s.sl.rxTime) (hlen : s.sl.samples.length + 1 = 33)
    (hbits : decidedBits (s.sl.samples ++ [level]) = [start] ++ (List.range 8).map data.getLsbD ++ [mark, stop]) :
    receiverPeriod level s =
      (takeFrame (classifyFrame stop mark data) (frameEnded stop s)).withInput level := by
  have hdecided : decidedBits (s.sampled level).sl.samples =
      [start] ++ (List.range 8).map data.getLsbD ++ [mark, stop] := hbits
  have hstop : stopBit ([start] ++ (List.range 8).map data.getLsbD ++ [mark, stop]) = stop := rfl
  have hended : (s.sampled level).setSl ((s.sampled level).sl.closeFrame stop) =
      (frameEnded stop s).withInput level := rfl
  have hlast : afterSample (s.sampled level) =
      takeFrame (classifyFrame stop mark data) ((frameEnded stop s).withInput level) := by
    rw [afterSample_last (by rw [State.sampled_length, hlen]), hdecided, frameKind_eq, hstop, hended]
  have hshort : GapShort (takeFrame (classifyFrame stop mark data) ((frameEnded stop s).withInput level)) :=
    takeFrame_gapShort (s := (frameEnded stop s).withInput level) hsound _
  rw [receiverPeriod_sampled level hline hat, hlast, overdueGap_of_short hshort, takeFrame_withInput]

/-- Settles O25: bits and data by their encoding, the receiver by the number of the sample, and the last sample by the
frame given as a command. -/
theorem sampledFrameIsTheFrameSent : Obligations.SampledFrameIsTheFrameSent := by
  refine ⟨decidedBits_noisy, fun data => frameKind_eq false false true data, fun s level hline =>
    ⟨receiverPeriod_between level hline, fun hat hstart hlast => ?_, fun hat hlen htrue => ?_⟩,
    fun s level start mark stop data h hsound hat hlen hbits =>
      ⟨_, receiverPeriod_last h.2 hsound hat hlen hbits, ?_, ?_, ?_, ?_⟩⟩
  · have hmore : afterSample (s.sampled level) = s.sampled level :=
      afterSample_more (by rw [State.sampled_length]; exact hstart) (by rw [State.sampled_length]; exact hlast)
    rw [receiverPeriod_sampled level hline hat, hmore, overdueGap_of_sampling (s := s.sampled level) hline]
    rfl
  · rw [receiverPeriod_sampled level hline hat,
      afterSample_falseStart (by rw [State.sampled_length, hlen]) htrue]
    refine ⟨fun hshort => ?_, fun n hg hn => ?_⟩
    · have hafter : GapShort (falseStart (s.sampled level)) := hshort
      rw [overdueGap_of_short hafter]
      rfl
    · rw [overdueGap_of_passed (s := falseStart (s.sampled level)) LineState.noConfusion hg hn]
      rfl
  · rintro rfl rfl
    exact exec_addressFrame h data
  · rintro rfl rfl
    exact exec_dataFrame h data
  · rintro rfl rfl rfl
    exact exec_linkBreak h
  · rintro rfl hd
    rw [classifyFrame_framingError hd]
    exact exec_framingError h hd

end Sys2Proof.Machine
end

section
/-! PROOFS. Data frames by receiver state, and a command ended at its length frame or its check frame, refused or
executed (R165 to R169, R201). -/
namespace Sys2Proof.Machine

/-! ### A data frame taken (R165, R166) -/

section
variable {s : State} {sel : Selection} {c : CommandBuffer}

theorem takeData_unselected (h : s.sl.receiver = .unselected) (b : Byte) : takeData b s = s := by
  unfold takeData
  rw [h]

theorem takeData_ignored (h : (∃ sel, s.sl.receiver = .executing sel) ∨ s.sl.receiver = .responding) (b : Byte) :
    takeData b s = ignoreFrame s := by
  unfold takeData
  obtain ⟨sel, h⟩ | h := h
  all_goals rw [h]

theorem takeData_opcode (h : s.sl.receiver = .selected sel) (hc : s.sl.command = none) (b : Byte) :
    takeData b s = takeOpcode b s := by
  unfold takeData
  rw [h, hc]

theorem takeData_next (h : s.sl.receiver = .selected sel) (hc : s.sl.command = some c) (b : Byte) :
    takeData b s = takeNext sel c b s := by
  unfold takeData
  rw [h, hc]

theorem takeNext_length (hl : c.length = none) {b : Byte} (hb : b.toNat ≤ 60) :
    takeNext sel c b s = collect { c with length := some b, sum := c.sum + b } s := by
  unfold takeNext
  rw [hl]
  exact if_neg (Nat.not_lt.mpr hb)

theorem takeNext_badLength (hl : c.length = none) {b : Byte} (hb : 60 < b.toNat) :
    takeNext sel c b s = refuseLength sel s := by
  unfold takeNext
  rw [hl]
  exact if_pos hb

theorem takeNext_payload {n : Byte} (hl : c.length = some n) (hp : c.payload.length < n.toNat) (b : Byte) :
    takeNext sel c b s = collect { c with payload := c.payload ++ [b], sum := c.sum + b } s := by
  have hmore : ¬ c.complete = true := by
    rw [CommandBuffer.complete, hl]
    simpa using hp
  unfold takeNext
  rw [hl]
  exact if_neg hmore

theorem takeNext_check {n : Byte} (hl : c.length = some n) (hp : n.toNat ≤ c.payload.length) (b : Byte) :
    takeNext sel c b s = takeCheck sel c b s := by
  have hcomplete : c.complete = true := by
    rw [CommandBuffer.complete, hl]
    simpa using hp
  unfold takeNext
  rw [hl]
  exact if_pos hcomplete

end

/-- Settles O28, by the receiver state and, in SELECTED, the place of the frame. -/
theorem dataFrameByReceiverState : Obligations.DataFrameByReceiverState := by
  intro s b h
  rw [exec_dataFrame h]
  refine ⟨fun hr => ?_, fun hr => ?_,
    fun sel hr => ⟨fun hc => ?_, fun op sum hc hb => ?_, fun op n p sum hc hp => ?_⟩⟩
  · rw [takeData_unselected (s := frameEnded true s) hr, frameEnded_eq]
    rfl
  · rw [takeData_ignored (s := frameEnded true s) hr]
    rfl
  · rw [takeData_opcode (s := frameEnded true s) hr hc]
    rfl
  · rw [takeData_next (s := frameEnded true s) hr hc, takeNext_length rfl hb]
    rfl
  · rw [takeData_next (s := frameEnded true s) hr hc, takeNext_payload rfl hp]
    rfl

/-! ### A command refused at collection (R166, R167) -/

/-- R166, R167, R170: a command ended at the frame just heard is turned away; the turnaround begins with that frame, so
it has not passed. -/
theorem endCollection_heard (l : ServiceLink) (sel : Selection) (status : Status) (next : Receiver) (s : State) :
    endCollection sel status next (s.setSl (l.heard true)) = s.setSl (l.turnedAway sel status next) := by
  have hturn : ¬ turnaroundLimit s.straps ≤ 0 :=
    Nat.not_le.mpr (Nat.mul_pos (by decide) (Nat.mul_pos (by decide) (Nat.two_pow_pos _)))
  cases sel with
  | addressed =>
    have hlink : ServiceLink.respond { l.heard true with sinceCommand := 0 } s.straps status [] =
        l.answered .addressed status [] := by
      unfold ServiceLink.respond
      dsimp only
      rw [if_neg hturn]
      rfl
    exact congrArg s.setSl hlink
  | broadcast => rfl

theorem refuseLength_frameEnded (sel : Selection) (s : State) :
    refuseLength sel (frameEnded true s) = s.setSl (s.sl.turnedAway sel .badLength .unselected) :=
  endCollection_heard s.sl sel .badLength .unselected s

/-- R167, R174: a check that is not accepted is counted under either selection. -/
theorem refuseCheck_frameEnded (sel : Selection) (s : State) :
    refuseCheck sel (frameEnded true s) = s.setSl
      { s.sl.turnedAway sel .badCheck (.selected .broadcast) with
        counters := { s.sl.counters with badChecks := bump s.sl.counters.badChecks } } := by
  have hcounted := endCollection_heard
    { s.sl with counters := { s.sl.counters with badChecks := bump s.sl.counters.badChecks } }
    sel .badCheck (.selected .broadcast) s
  refine Eq.trans hcounted ?_
  cases sel
  all_goals rfl

theorem awaitingLength_eq {l : ServiceLink} {sel : Selection} {c : CommandBuffer} (hr : l.receiver = .selected sel)
    (hc : l.command = some c) (hl : c.length = none) : awaitingLength l = some (sel, c) := by
  unfold awaitingLength
  rw [hr, hc]
  exact if_pos hl

theorem exec_badLength {s : State} {sel : Selection} {c : CommandBuffer} {n : Byte} (h : InFrame s)
    (hr : s.sl.receiver = .selected sel) (hc : s.sl.command = some c) (hl : c.length = none) (hn : 60 < n.toNat) :
    exec (.badLength n) s = .next (refuseLength sel (frameEnded true s)) := by
  obtain ⟨hheld, hline⟩ := h
  have habove : ¬ n.toNat ≤ maxPayload := Nat.not_le.mpr hn
  change execBadLength n s = _
  rw [execBadLength, if_neg habove, if_neg (by simp [hheld]), if_pos hline, awaitingLength_eq hr hc hl]

/-- Settles O29: both events refuse the length. -/
theorem lengthAboveSixtyEndsCollection : Obligations.LengthAboveSixtyEndsCollection := by
  intro s sel c n h hr hc hl hn
  rw [exec_badLength h hr hc hl hn, exec_dataFrame h, takeData_next (s := frameEnded true s) hr hc,
    takeNext_badLength hl hn, refuseLength_frameEnded]
  exact ⟨rfl, rfl⟩

/-! ### The check frame (R167) -/

/-- The running sum with the check in it is the byte sum of the command's frames. -/
theorem collected_addCheck_sum (op : Byte) (p : List Byte) (check : Byte) :
    ((CommandBuffer.collected op p).addCheck check).sum = byteSum ([op, BitVec.ofNat 8 p.length] ++ p ++ [check]) := by
  have hzero : byteSum [check] = check := BitVec.add_zero check
  change op + BitVec.ofNat 8 p.length + byteSum p + check = _
  rw [byteSum_append, hzero]
  change _ = op + (BitVec.ofNat 8 p.length + byteSum p) + check
  rw [BitVec.add_assoc op]

section
variable {s : State} {sel : Selection} {op check : Byte} {p : List Byte}

/-- R166, R167: the data frame after a whole payload is the check frame. -/
theorem Collected.exec_dataFrame (h : Collected s sel op p) (check : Byte) :
    exec (.dataFrame check) s = .next (takeCheck sel (.collected op p) check (frameEnded true s)) := by
  obtain ⟨hframe, hr, hlen, hc⟩ := h
  have hn : (BitVec.ofNat 8 p.length).toNat = p.length := toNat_ofNat_byte (by omega)
  rw [Machine.exec_dataFrame hframe, takeData_next (s := frameEnded true s) hr hc,
    takeNext_check rfl (Nat.le_of_eq hn)]
  rfl

theorem Collected.exec_badCheck (h : Collected s sel op p)
    (hsum : ((CommandBuffer.collected op p).addCheck check).sum ≠ 0) :
    exec (.badCheck check) s = .next (refuseCheck sel (frameEnded true s)) := by
  obtain ⟨⟨hheld, hline⟩, -⟩ := id h
  change execBadCheck check s = _
  rw [execBadCheck, if_neg (by simp [hheld]), if_pos hline, h.awaitingCheck]
  exact if_neg hsum

end

/-- Settles O30: both events refuse the check; the response is that of BAD_CHECK with no payload. -/
theorem checkNotAcceptedDiscardsTheCommand : Obligations.CheckNotAcceptedDiscardsTheCommand := by
  intro s sel op p check h hsum
  rw [← collected_addCheck_sum] at hsum
  have hbad := h.exec_badCheck hsum
  refine ⟨?_, ?_, by decide⟩
  · rw [hbad, refuseCheck_frameEnded]
    rfl
  · rw [h.exec_dataFrame, hbad, takeCheck, if_neg hsum]

/-! ### The accepted check executes its row (R167, R169, R201) -/

/-- The check that brings the sum to 0 is the one the rows imply. -/
theorem acceptedCheck_eq {c : CommandBuffer} {check : Byte} (h : (c.addCheck check).sum = 0) :
    check = c.acceptedCheck := by
  have hsum : c.sum + check = 0 := h
  rw [CommandBuffer.acceptedCheck, ← hsum, BitVec.add_comm, BitVec.add_sub_cancel]

/-- R169: the accepted check frame is the row that knows the command and runs the execution its opcode names. -/
theorem Collected.exec_accepted {s : State} {sel : Selection} {op check : Byte} {p : List Byte}
    {isRow : CommandBuffer → Bool} {run : List Byte → State → ServiceResult} (h : Collected s sel op p)
    (hsum : byteSum ([op, BitVec.ofNat 8 p.length] ++ p ++ [check]) = 0) (hrow : isRow (.collected op p) = true)
    (hrun : serviceOf op = run) :
    exec (.dataFrame check) s = serviceRow isRow run s := by
  rw [← collected_addCheck_sum] at hsum
  have hcarry : takeCheck sel (.collected op p) check (frameEnded true s) =
      carryOut (serviceOf op) sel ((CommandBuffer.collected op p).addCheck check) (frameEnded true s) :=
    if_pos hsum
  rw [h.exec_dataFrame, hcarry, serviceRow_collected h hrow, ← acceptedCheck_eq hsum, hrun]

/-- R201: every row but the two of SET_BANK knows its command by the opcode alone. -/
theorem exec_serviceRow : ∀ r ∈ serviceRows, r.2.1 ≠ 0x21 →
    ∀ s, exec r.1 s = serviceRow (hasOpcode r.2.1) (serviceOf r.2.1) s := by
  simp only [serviceRows, List.forall_mem_cons, List.not_mem_nil, ne_eq, BitVec.reduceEq, not_true_eq_false,
    not_false_eq_true, false_imp_iff, true_imp_iff, implies_true, true_and, and_true]
  and_intros
  all_goals exact fun _ => rfl

/-- R201: the rows are the opcode table's, so an opcode of no row is unknown. -/
theorem isUnknown_collected {op : Byte} (h : ∀ r ∈ serviceRows, r.2.1 ≠ op) (p : List Byte) :
    isUnknown (.collected op p) = true := by
  have hrows : ∀ e ∈ serviceTable, ∃ r ∈ serviceRows, r.2.1 = e.1 := by decide
  have hnone : ¬ isOpcode op = true := by
    intro hop
    obtain ⟨e, he, heq⟩ := List.any_eq_true.mp hop
    obtain ⟨r, hr, hre⟩ := hrows e he
    exact h r hr (hre.trans (eq_of_beq heq))
  simpa [isUnknown, CommandBuffer.collected] using hnone

/-- R77: a SET_BANK of another payload length is a command of both rows (log 13). -/
theorem isFollow_isNow_of_length {p : List Byte} (h : p.length ≠ 3) :
    isFollow (.collected 0x21 p) = true ∧ isNow (.collected 0x21 p) = true := by
  simp [isFollow, isNow, CommandBuffer.collected, opSetBank, h]

/-- Settles O33: the opcode selects the row, SET_BANK's mode one of its two. -/
theorem acceptedCheckExecutesTheOpcode : Obligations.AcceptedCheckExecutesTheOpcode := by
  intro s sel op p check h hsum
  refine ⟨?_, ?_, ?_, ?_, fun hop => ?_⟩
  · rintro r hr rfl hne
    rw [exec_serviceRow r hr hne]
    exact h.exec_accepted hsum (hasOpcode_collected _ p) rfl
  · rintro rfl w b rfl
    exact h.exec_accepted hsum (isFollow_collected (by decide)) serviceOf_setBank
  · rintro rfl w b rfl
    exact h.exec_accepted hsum (isNow_collected (by decide)) serviceOf_setBank
  · rintro rfl hboth
    have hrows : isFollow (.collected 0x21 p) = true ∧ isNow (.collected 0x21 p) = true := by
      obtain hlen | ⟨w, b, mode, rfl, hmode⟩ := hboth
      · exact isFollow_isNow_of_length hlen
      · exact ⟨isFollow_collected fun hm => by simp [hm] at hmode, isNow_collected fun hm => by simp [hm] at hmode⟩
    exact ⟨h.exec_accepted hsum hrows.1 serviceOf_setBank, h.exec_accepted hsum hrows.2 serviceOf_setBank⟩
  · have hunknown := isUnknown_collected hop p
    exact h.exec_accepted hsum hunknown (isUnknown_run hunknown)

end Sys2Proof.Machine
end

section
/-! PROOFS. The response transmitter: turnaround, frames in order, bits on the line (R158, R163, R170, R171, R195, R196,
R201). -/
namespace Sys2Proof.Machine

/-! ### The ends of turnaround and frames (R163, R170, R171) -/

section
variable {s : State} {k b p : Nat}

theorem exec_turnaroundEnd (h : s.sl.transmitter = .turnaround) :
    exec .turnaroundEnd s = .next (beginResponseFrames s) := by
  change execTurnaroundEnd s = _
  rw [execTurnaroundEnd, h]

theorem exec_responseFrameEnd (h : s.sl.transmitter = .sending k b p) :
    exec .responseFrameEnd s = .next (endResponseFrame k s) := by
  change execResponseFrameEnd s = _
  rw [execResponseFrameEnd, h]

/-- R163: a selection held over is taken at the end of a frame. -/
theorem endResponseFrame_heldOver {v : Byte} (h : s.sl.heldOver = some v) (k : Nat) :
    endResponseFrame k s =
      s.setSl { s.sl.clearConversation with receiver := selectionOf s.straps.unitAddress v } := by
  rw [endResponseFrame, h]

/-- R196: status, length and check are sent besides the payload. -/
theorem responseFrameCount_eq {r : Response} (h : s.sl.response = some r) :
    responseFrameCount s.sl = r.payload.length + 3 := by
  rw [responseFrameCount, h]
  exact frames_length r

theorem endResponseFrame_next {r : Response} (hheld : s.sl.heldOver = none) (hr : s.sl.response = some r)
    (h : k + 1 < r.payload.length + 3) :
    endResponseFrame k s = s.setSl { s.sl with transmitter := .sending (k + 1) 0 0 } := by
  rw [endResponseFrame, hheld]
  exact if_pos (by rwa [responseFrameCount_eq hr])

theorem endResponseFrame_last {r : Response} (hheld : s.sl.heldOver = none) (hr : s.sl.response = some r)
    (h : k + 1 = r.payload.length + 3) :
    endResponseFrame k s =
      s.setSl { s.sl with receiver := .selected .addressed, response := none, transmitter := .off } := by
  rw [endResponseFrame, hheld]
  exact if_neg (by rw [responseFrameCount_eq hr, h]; exact Nat.lt_irrefl _)

/-! ### The transmitter in a period (R158, R170, R171) -/

theorem transmitterPeriod_off (h : s.sl.transmitter = .off) : transmitterPeriod s = s := by
  rw [transmitterPeriod, h]

theorem transmitterPeriod_turnaround (h : s.sl.transmitter = .turnaround) :
    transmitterPeriod s =
      if 2 * (32 * 2 ^ s.straps.rateValue) ≤ s.sl.sinceCommand then beginResponseFrames s else s := by
  rw [transmitterPeriod, h]
  rfl

theorem transmitterPeriod_sending (h : s.sl.transmitter = .sending k b p) :
    transmitterPeriod s =
      if 32 * 2 ^ s.straps.rateValue ≤ p then
        if b < 10 then s.setSl { s.sl with transmitter := .sending k (b + 1) 0 } else endResponseFrame k s
      else s := by
  rw [transmitterPeriod, h]
  rfl

end

/-! ### The output (R157, R171, R195) -/

theorem linkOutput_released {l : ServiceLink} (h : l.transmitter = .off ∨ l.transmitter = .turnaround) :
    linkOutput l = true := by
  unfold linkOutput
  obtain h | h := h
  all_goals rw [h]

theorem linkOutput_sending {l : ServiceLink} {k b p : Nat} {r : Response} {f : Byte}
    (ht : l.transmitter = .sending k b p) (hr : l.response = some r) (hf : r.frames[k]? = some f) :
    linkOutput l = dataFrameBit f b := by
  have hframe : r.frames.getD k 0 = f := by rw [List.getD_eq_getElem?_getD, hf, Option.getD_some]
  unfold linkOutput
  rw [ht, hr]
  exact congrArg (dataFrameBit · b) hframe

theorem dataFrameBit_data {f : Byte} {b : Nat} (h1 : 1 ≤ b) (h8 : b ≤ 8) : dataFrameBit f b = f.getLsbD (b - 1) := by
  rw [dataFrameBit, if_neg (by omega), if_pos h8]

theorem makeResponse_frames_take (status : Status) (p : List Byte) :
    (makeResponse status p).frames.take (p.length + 2) = [status.code, BitVec.ofNat 8 p.length] ++ p :=
  List.take_left' (by simp [makeResponse])

/-- Settles O31: events by the transmitter's state, periods by its counts, the output by its bit. -/
theorem responseFramesAreSentInOrder : Obligations.ResponseFramesAreSentInOrder := by
  refine ⟨fun s ht => exec_turnaroundEnd ht, fun s k b p r ht hr => ?_,
    fun status p => ⟨makeResponse_sum status p, makeResponse_frames_take status p⟩, by decide,
    fun s => ⟨transmitterPeriod_off, fun ht hn => ?_, fun ht hn => ?_, fun k b p ht => ?_⟩,
    fun l => ⟨linkOutput_released, fun k b p r ht hr f hf => ?_⟩⟩
  · rw [exec_responseFrameEnd ht]
    refine ⟨fun hheld hk => ?_, fun hheld hk => ?_, fun v hheld => ?_⟩
    · rw [endResponseFrame_next hheld hr hk]
      rfl
    · rw [endResponseFrame_last hheld hr hk]
      rfl
    · rw [endResponseFrame_heldOver hheld, selectionOf_eq]
      rfl
  · rw [transmitterPeriod_turnaround ht, if_neg (Nat.not_le.mpr hn)]
  · rw [transmitterPeriod_turnaround ht, if_pos hn, exec_turnaroundEnd ht]
  · rw [transmitterPeriod_sending ht]
    refine ⟨fun hp => if_neg (Nat.not_le.mpr hp), fun hp hb => ?_, fun hp hb => ?_⟩
    · rw [if_pos hp, if_pos hb]
      rfl
    · rw [if_pos hp, if_neg (by omega), exec_responseFrameEnd ht]
  · rw [linkOutput_sending ht hr hf]
    refine ⟨?_, dataFrameBit_data, ?_, ?_⟩
    all_goals rintro rfl
    all_goals rfl

end Sys2Proof.Machine
end

section
/-! PROOFS. IDENTIFY, the reads of table entries, and COPY_LIVE_TO_STAGED (R44, R179, R180, R183). -/
namespace Sys2Proof.Machine

/-! ### IDENTIFY (R179, R197) -/

/-- R197: the boot width in bits. -/
theorem Width.byte_bits (w : Width) : BitVec.ofNat 8 w.bits = if w = .w16 then 16 else 8 := by
  cases w
  all_goals rfl

theorem serviceIdentify_ended (s : State) :
    serviceIdentify [] s = .ended s .ok
      [0x16, 0x24, 1, BitVec.ofNat 8 s.straps.unitAddress.toNat, BitVec.ofNat 8 s.straps.rateValue,
        if s.straps.bootWidth = .w16 then 16 else 8, 16, 8, 4, 8, 8] := by
  rw [serviceIdentify, Width.byte_bits]

/-- Settles O34: the straps are those of the state, which no frame changes. -/
theorem identifyAnswersTheSampledStraps : Obligations.IdentifyAnswersTheSampledStraps :=
  fun s sel h =>
    serviceRow_ended (t := s.executing sel 0x01 []) h (hasOpcode_collected _ _) (serviceIdentify_ended _) rfl

/-! ### Reads of the named set (R180) -/

/-- The codes LIVE and STAGED are those of no and yes (R197). -/
theorem readSet_eq_readYesNo (b : Byte) : readSet b = readYesNo b := rfl

/-- R180: the execution of a read whose index is in range: the set is judged, then the report on it is the answer. -/
def namedRead (report : TableSet → List Byte) (set : Byte) (s : State) : ServiceResult :=
  (readSet set).elim (refuseCommand .badValue s) fun staged => .ended s .ok (report (namedSet staged s))

theorem namedRead_live (report : TableSet → List Byte) (s : State) :
    namedRead report 0 s = .ended s .ok (report s.live) := rfl

theorem namedRead_staged (report : TableSet → List Byte) (s : State) :
    namedRead report 1 s = .ended s .ok (report s.staged) := rfl

theorem namedRead_badValue (report : TableSet → List Byte) {set : Byte} (h : 2 ≤ set.toNat) (s : State) :
    namedRead report set s = refuseCommand .badValue s := by
  rw [namedRead, readSet_eq_readYesNo, (readYesNo_eq_none_iff set).mpr h, Option.elim_none]

section
variable {set index : Byte}

theorem serviceReadWindow_badIndex (h : 16 ≤ index.toNat) (s : State) :
    serviceReadWindow [set, index] s = refuseCommand .badIndex s := by
  simp only [serviceReadWindow, indexWithin_of_le h]

theorem serviceReadWindow_named {i : Fin 16} (h : index.toNat = i.val) (s : State) :
    serviceReadWindow [set, index] s = namedRead (fun t => encodeWindow t.windows[i]) set s := by
  simp only [serviceReadWindow, indexWithin_of_eq h, namedRead]
  cases readSet set
  all_goals rfl

theorem serviceReadProfile_badIndex (h : 8 ≤ index.toNat) (s : State) :
    serviceReadProfile [set, index] s = refuseCommand .badIndex s := by
  simp only [serviceReadProfile, indexWithin_of_le h]

theorem serviceReadProfile_named {i : Fin 8} (h : index.toNat = i.val) (s : State) :
    serviceReadProfile [set, index] s = namedRead (fun t => encodeProfile t.profiles[i]) set s := by
  simp only [serviceReadProfile, indexWithin_of_eq h, namedRead]
  cases readSet set
  all_goals rfl

theorem serviceReadTrigger_badIndex (h : 4 ≤ index.toNat) (s : State) :
    serviceReadTrigger [set, index] s = refuseCommand .badIndex s := by
  simp only [serviceReadTrigger, indexWithin_of_le h]

theorem serviceReadTrigger_named {i : Fin 4} (h : index.toNat = i.val) (s : State) :
    serviceReadTrigger [set, index] s = namedRead (fun t => encodeTrigger t.triggers[i]) set s := by
  simp only [serviceReadTrigger, indexWithin_of_eq h, namedRead]
  cases readSet set
  all_goals rfl

theorem serviceReadGlobals_named (s : State) :
    serviceReadGlobals [set] s = namedRead (fun t => encodeGlobals t.globals) set s := by
  simp only [serviceReadGlobals, namedRead]
  cases readSet set
  all_goals rfl

end

/-- R180: what the row of a read does with a collected command, by its set. -/
theorem serviceRow_namedRead {report : TableSet → List Byte} {run : List Byte → State → ServiceResult} {s : State}
    {sel : Selection} {op set : Byte} {p : List Byte} (h : Collected s sel op p)
    (hrun : ∀ u, run p u = namedRead report set u) :
    (set = 0 → serviceRow (hasOpcode op) run s = .next (s.answered sel .ok (report s.live))) ∧
    (set = 1 → serviceRow (hasOpcode op) run s = .next (s.answered sel .ok (report s.staged))) ∧
    (2 ≤ set.toNat → serviceRow (hasOpcode op) run s = .next (s.answered sel .badValue [])) := by
  have hrow := hasOpcode_collected op p
  refine ⟨?_, ?_, fun hset => serviceRow_refused h hrow ((hrun _).trans (namedRead_badValue report hset _))⟩
  · rintro rfl
    exact serviceRow_ended (t := s.executing sel op p) h hrow ((hrun _).trans (namedRead_live report _)) rfl
  · rintro rfl
    exact serviceRow_ended (t := s.executing sel op p) h hrow ((hrun _).trans (namedRead_staged report _)) rfl

/-- Settles O35: the four reads are one execution with four reports; three of them have an index, judged first. -/
theorem readsReturnTheNamedEntry : Obligations.ReadsReturnTheNamedEntry := by
  refine fun s sel set index => ⟨fun h i hi => ?_, fun h hi => ?_, fun h i hi => ?_, fun h hi => ?_, fun h i hi => ?_,
    fun h hi => ?_, fun h => ?_⟩
  · exact serviceRow_namedRead h (serviceReadWindow_named hi)
  · exact serviceRow_refused h (hasOpcode_collected _ _) (serviceReadWindow_badIndex hi _)
  · exact serviceRow_namedRead h (serviceReadProfile_named hi)
  · exact serviceRow_refused h (hasOpcode_collected _ _) (serviceReadProfile_badIndex hi _)
  · exact serviceRow_namedRead h (serviceReadTrigger_named hi)
  · exact serviceRow_refused h (hasOpcode_collected _ _) (serviceReadTrigger_badIndex hi _)
  · exact serviceRow_namedRead h serviceReadGlobals_named

/-! ### COPY_LIVE_TO_STAGED (R44, R183) -/

theorem serviceCopy_ended (s : State) : serviceCopy [] s = .ended (s.setStaged s.live) .ok [] := rfl

/-- Settles O38. -/
theorem copyOverwritesTheStagedSet : Obligations.CopyOverwritesTheStagedSet :=
  fun _ _ h => serviceRow_ended h (hasOpcode_collected _ _) (serviceCopy_ended _) rfl

end Sys2Proof.Machine
end

section
/-! PROOFS. READ_BANK and CANCEL_PENDING: the bank state reported, its pending bank cleared (R73, R76, R77, R185,
R187). -/
namespace Sys2Proof.Machine

/-! ### Commands on a BANKED live window (R77, R176) -/

/-- R77: the execution of a command on the bank state of a live window: the index is judged, then whether the window is
valid and BANKED, and the command acts on the window. -/
def onBankedWindow (act : Fin 16 → State → ServiceResult) (index : Byte) (s : State) : ServiceResult :=
  (indexWithin 16 index).elim (refuseCommand .badIndex s) fun w =>
    if s.live.windows[w].isBanked then act w s else refuseCommand .notBanked s

section
variable {act : Fin 16 → State → ServiceResult} {index : Byte} {s : State} {w : Fin 16}

theorem onBankedWindow_badIndex (h : 16 ≤ index.toNat) :
    onBankedWindow act index s = refuseCommand .badIndex s := by
  rw [onBankedWindow, indexWithin_of_le h, Option.elim_none]

theorem onBankedWindow_notBanked (hi : index.toNat = w.val)
    (h : s.live.windows[w].valid = false ∨ s.live.windows[w].kind = .plain) :
    onBankedWindow act index s = refuseCommand .notBanked s := by
  simp only [onBankedWindow, indexWithin_of_eq hi, Option.elim_some, not_isBanked_of h, Bool.false_eq_true, if_false]

theorem onBankedWindow_acts (hi : index.toNat = w.val) (hv : s.live.windows[w].valid = true)
    (hk : s.live.windows[w].kind = .banked) : onBankedWindow act index s = act w s := by
  simp only [onBankedWindow, indexWithin_of_eq hi, Option.elim_some, (isBanked_iff _).mpr ⟨hv, hk⟩, if_true]

end

/-- R77: the refusals of the row of such a command. -/
theorem serviceRow_onBankedWindow_refused {act : Fin 16 → State → ServiceResult}
    {run : List Byte → State → ServiceResult} {s : State} {sel : Selection} {op index : Byte} {p : List Byte}
    (h : Collected s sel op p) (hrun : ∀ u, run p u = onBankedWindow act index u) :
    (16 ≤ index.toNat → serviceRow (hasOpcode op) run s = .next (s.answered sel .badIndex [])) ∧
    ∀ w : Fin 16, index.toNat = w.val → s.live.windows[w].valid = false ∨ s.live.windows[w].kind = .plain →
      serviceRow (hasOpcode op) run s = .next (s.answered sel .notBanked []) := by
  have hrow := hasOpcode_collected op p
  exact ⟨fun hi => serviceRow_refused h hrow ((hrun _).trans (onBankedWindow_badIndex hi)),
    fun w hi hn => serviceRow_refused h hrow ((hrun _).trans (onBankedWindow_notBanked hi hn))⟩

/-! ### READ_BANK (R73, R185) -/

/-- R73: the report of a window that has its bank state. -/
def reportBank (w : Fin 16) (s : State) : ServiceResult :=
  s.banks[w].elim (refuseCommand .notBanked s) fun k => .ended s .ok (bankReport s.live.windows[w] k)

theorem serviceReadBank_eq (index : Byte) (s : State) :
    serviceReadBank [index] s = onBankedWindow reportBank index s := by
  simp only [serviceReadBank, onBankedWindow]
  cases indexWithin 16 index with
  | none => rfl
  | some w =>
    simp only [reportBank, Option.elim_some]
    cases s.banks[w]
    all_goals rfl

theorem reportBank_of_some {s : State} {w : Fin 16} {k : BankState} (h : s.banks[w] = some k) :
    reportBank w s = .ended s .ok (bankReport s.live.windows[w] k) := by
  rw [reportBank, h, Option.elim_some]

/-- Settles O41, by the index and the window it names. -/
theorem readBankReportsTheBankState : Obligations.ReadBankReportsTheBankState := by
  intro s sel index h
  obtain ⟨hbadIndex, hnotBanked⟩ := serviceRow_onBankedWindow_refused h (serviceReadBank_eq index)
  refine ⟨hbadIndex, fun w hi => ⟨hnotBanked w hi, fun hv hkind k hk => ?_⟩⟩
  have hrun := (serviceReadBank_eq index (s.executing sel 0x20 [index])).trans (onBankedWindow_acts hi hv hkind)
  exact serviceRow_ended (t := s.executing sel 0x20 [index]) h (hasOpcode_collected _ _)
    (hrun.trans (reportBank_of_some hk)) rfl

/-! ### CANCEL_PENDING (R76, R187) -/

/-- R76: the effect of CANCEL_PENDING on a window. -/
def cancelBank (w : Fin 16) (s : State) : ServiceResult :=
  .ended (s.setBanks (updateBank w BankState.cancel s.banks)) .ok []

theorem serviceCancel_eq (index : Byte) (s : State) :
    serviceCancel [index] s = onBankedWindow cancelBank index s := by
  simp only [serviceCancel, onBankedWindow]
  cases indexWithin 16 index
  all_goals rfl

theorem cancelBank_of_some {s : State} {w : Fin 16} {k : BankState} (h : s.banks[w] = some k) :
    cancelBank w s = .ended (s.setBanks (banksWith s.banks w { k with pending := none })) .ok [] := by
  rw [cancelBank, updateBank_of_some h, BankState.cancel]

/-- Settles O43, by the index and the window it names. -/
theorem cancelPendingClearsThePendingBank : Obligations.CancelPendingClearsThePendingBank := by
  intro s sel index h
  obtain ⟨hbadIndex, hnotBanked⟩ := serviceRow_onBankedWindow_refused h (serviceCancel_eq index)
  refine ⟨hbadIndex, fun w hi => ⟨hnotBanked w hi, fun hv hkind k hk => ?_⟩⟩
  have hrun := (serviceCancel_eq index (s.executing sel 0x22 [index])).trans (onBankedWindow_acts hi hv hkind)
  exact serviceRow_ended h (hasOpcode_collected _ _) (hrun.trans (cancelBank_of_some hk)) rfl

end Sys2Proof.Machine
end

section
/-! PROOFS. REMOVE_FAULTS and SET_ALERT: the log's head, its overflow flag, and ALERT (R150, R153, R154, R189, R190). -/
namespace Sys2Proof.Machine

/-! ### REMOVE_FAULTS (R150, R189) -/

/-- R150, R154: n records go from the head, or all there are; what is left decides the overflow flag and ALERT. -/
theorem FaultLog.remove_eq (l : FaultLog) (n : Nat) :
    l.remove n = { l with
      records := l.records.drop (min n l.records.length)
      overflow := if l.records.length ≤ n then false else l.overflow
      alert := decide (n < l.records.length) && l.alertEnable } := by
  have hdrop : l.records.drop (min n l.records.length) = l.records.drop n := by
    rw [List.drop_eq_drop_iff, Nat.min_assoc, Nat.min_self]
  have hempty : (l.records.drop n).isEmpty = decide (l.records.length ≤ n) := by
    rw [Bool.eq_iff_iff, List.isEmpty_iff, List.drop_eq_nil_iff, decide_eq_true_iff]
  have hleft : (!decide (l.records.length ≤ n)) = decide (n < l.records.length) := by
    rw [← decide_not, decide_eq_decide, Nat.not_le]
  simp only [FaultLog.remove, FaultLog.withAlert, hdrop, hempty, hleft, decide_eq_true_eq]

theorem serviceRemoveFaults_badValue {n : Byte} (h : n.toNat = 0 ∨ 8 < n.toNat) (s : State) :
    serviceRemoveFaults [n] s = refuseCommand .badValue s := by
  rw [serviceRemoveFaults, if_neg (by omega)]

theorem serviceRemoveFaults_removed {n : Byte} (hlow : 1 ≤ n.toNat) (hhigh : n.toNat ≤ 8) (s : State) :
    serviceRemoveFaults [n] s = .ended (s.setFl (s.fl.remove n.toNat)) .ok
      [BitVec.ofNat 8 (min n.toNat s.fl.records.length),
        BitVec.ofNat 8 (s.fl.records.length - min n.toNat s.fl.records.length)] := by
  have hleft : s.fl.records.length - n.toNat = s.fl.records.length - min n.toNat s.fl.records.length := by omega
  rw [serviceRemoveFaults, if_pos ⟨hlow, hhigh⟩, hleft]

/-- Settles O45, by whether the number is in 1..8. -/
theorem removeFaultsTakesFromTheHead : Obligations.RemoveFaultsTakesFromTheHead := by
  refine fun s sel n h => ⟨fun hbad => ?_, fun hlow hhigh => ?_⟩
  · exact serviceRow_refused h (hasOpcode_collected _ _) (serviceRemoveFaults_badValue hbad _)
  · rw [← FaultLog.remove_eq]
    exact serviceRow_ended h (hasOpcode_collected _ _) (serviceRemoveFaults_removed hlow hhigh _) rfl

/-! ### SET_ALERT (R153, R154, R190) -/

theorem FaultLog.setEnable_false (l : FaultLog) :
    l.setEnable false = { l with alertEnable := false, alert := false } := by
  rw [FaultLog.setEnable, FaultLog.withAlert, Bool.and_false]

theorem FaultLog.setEnable_true (l : FaultLog) :
    l.setEnable true = { l with alertEnable := true, alert := decide (l.records ≠ []) } := by
  have hrecord : (!l.records.isEmpty) = decide (l.records ≠ []) := by
    rw [Bool.eq_iff_iff, Bool.not_eq_true', List.isEmpty_eq_false_iff, decide_eq_true_iff]
  rw [FaultLog.setEnable, FaultLog.withAlert, Bool.and_true, hrecord]

theorem serviceSetAlert_badValue {enable : Byte} (h : 2 ≤ enable.toNat) (s : State) :
    serviceSetAlert [enable] s = refuseCommand .badValue s := by
  simp only [serviceSetAlert, (readYesNo_eq_none_iff enable).mpr h]

theorem serviceSetAlert_no (s : State) : serviceSetAlert [0] s = .ended (s.setFl (s.fl.setEnable false)) .ok [] := rfl

theorem serviceSetAlert_yes (s : State) : serviceSetAlert [1] s = .ended (s.setFl (s.fl.setEnable true)) .ok [] := rfl

/-- Settles O46: the value is no, yes or neither. -/
theorem setAlertTakesTheValue : Obligations.SetAlertTakesTheValue := by
  refine fun s sel enable h => ⟨fun hbad => ?_, fun hno => ?_, fun hyes => ?_⟩
  · exact serviceRow_refused h (hasOpcode_collected _ _) (serviceSetAlert_badValue hbad _)
  · subst hno
    rw [← FaultLog.setEnable_false]
    exact serviceRow_ended h (hasOpcode_collected _ _) (serviceSetAlert_no _) rfl
  · subst hyes
    rw [← FaultLog.setEnable_true]
    exact serviceRow_ended h (hasOpcode_collected _ _) (serviceSetAlert_yes _) rfl

end Sys2Proof.Machine
end

section
/-! PROOFS. Commands of wrong length, and unknown opcodes (R176, R201; log 13). -/
namespace Sys2Proof.Machine

/-! ### The payload length of an execution (R176) -/

/-- R176: an execution refuses every payload whose length is not n. -/
def RefusesOtherLengths (n : Nat) (run : List Byte → State → ServiceResult) : Prop :=
  ∀ p : List Byte, p.length ≠ n → ∀ s, run p s = refuseCommand .badLength s

section
variable {run : List Byte → State → ServiceResult}

theorem RefusesOtherLengths.zero (hcons : ∀ a p s, run (a :: p) s = refuseCommand .badLength s) :
    RefusesOtherLengths 0 run
  | [], h => absurd rfl h
  | a :: p, _ => hcons a p

/-- An execution of n + 1 bytes refuses the empty payload and, after a first byte, every rest that is not n bytes. -/
theorem RefusesOtherLengths.succ {n : Nat} (hnil : ∀ s, run [] s = refuseCommand .badLength s)
    (hcons : ∀ a, RefusesOtherLengths n fun p => run (a :: p)) : RefusesOtherLengths (n + 1) run
  | [], _ => hnil
  | a :: p, h => hcons a p fun hp => h (congrArg Nat.succ hp)

theorem RefusesOtherLengths.one (hnil : ∀ s, run [] s = refuseCommand .badLength s)
    (hmore : ∀ a b p s, run (a :: b :: p) s = refuseCommand .badLength s) : RefusesOtherLengths 1 run :=
  .succ hnil fun a => .zero (hmore a)

theorem RefusesOtherLengths.two (hnil : ∀ s, run [] s = refuseCommand .badLength s)
    (hone : ∀ a s, run [a] s = refuseCommand .badLength s)
    (hmore : ∀ a b c p s, run (a :: b :: c :: p) s = refuseCommand .badLength s) : RefusesOtherLengths 2 run :=
  .succ hnil fun a => .one (hone a) (hmore a)

theorem RefusesOtherLengths.three (hnil : ∀ s, run [] s = refuseCommand .badLength s)
    (hone : ∀ a s, run [a] s = refuseCommand .badLength s) (htwo : ∀ a b s, run [a, b] s = refuseCommand .badLength s)
    (hmore : ∀ a b c d p s, run (a :: b :: c :: d :: p) s = refuseCommand .badLength s) :
    RefusesOtherLengths 3 run :=
  .succ hnil fun a => .two (hone a) (htwo a) (hmore a)

end

theorem serviceIdentify_refusesOtherLengths : RefusesOtherLengths 0 serviceIdentify :=
  .zero fun _ _ _ => rfl
theorem serviceReadWindow_refusesOtherLengths : RefusesOtherLengths 2 serviceReadWindow :=
  .two (fun _ => rfl) (fun _ _ => rfl) fun _ _ _ _ _ => rfl
theorem serviceWriteWindow_refusesOtherLengths : RefusesOtherLengths 17 serviceWriteWindow :=
  fun _ h _ => if_neg h
theorem serviceReadProfile_refusesOtherLengths : RefusesOtherLengths 2 serviceReadProfile :=
  .two (fun _ => rfl) (fun _ _ => rfl) fun _ _ _ _ _ => rfl
theorem serviceWriteProfile_refusesOtherLengths : RefusesOtherLengths 7 serviceWriteProfile :=
  fun _ h _ => if_neg h
theorem serviceReadTrigger_refusesOtherLengths : RefusesOtherLengths 2 serviceReadTrigger :=
  .two (fun _ => rfl) (fun _ _ => rfl) fun _ _ _ _ _ => rfl
theorem serviceWriteTrigger_refusesOtherLengths : RefusesOtherLengths 6 serviceWriteTrigger :=
  fun _ h _ => if_neg h
theorem serviceReadGlobals_refusesOtherLengths : RefusesOtherLengths 1 serviceReadGlobals :=
  .one (fun _ => rfl) fun _ _ _ _ => rfl
theorem serviceWriteGlobals_refusesOtherLengths : RefusesOtherLengths 2 serviceWriteGlobals :=
  fun _ h _ => if_neg h
theorem serviceCopy_refusesOtherLengths : RefusesOtherLengths 0 serviceCopy :=
  .zero fun _ _ _ => rfl
theorem serviceApply_refusesOtherLengths : RefusesOtherLengths 0 serviceApply :=
  .zero fun _ _ _ => rfl
theorem serviceReadBank_refusesOtherLengths : RefusesOtherLengths 1 serviceReadBank :=
  .one (fun _ => rfl) fun _ _ _ _ => rfl
theorem serviceSetBank_refusesOtherLengths : RefusesOtherLengths 3 serviceSetBank :=
  .three (fun _ => rfl) (fun _ _ => rfl) (fun _ _ _ => rfl) fun _ _ _ _ _ _ => rfl
theorem serviceCancel_refusesOtherLengths : RefusesOtherLengths 1 serviceCancel :=
  .one (fun _ => rfl) fun _ _ _ _ => rfl
theorem serviceReadFaults_refusesOtherLengths : RefusesOtherLengths 0 serviceReadFaults :=
  .zero fun _ _ _ => rfl
theorem serviceRemoveFaults_refusesOtherLengths : RefusesOtherLengths 1 serviceRemoveFaults :=
  .one (fun _ => rfl) fun _ _ _ _ => rfl
theorem serviceSetAlert_refusesOtherLengths : RefusesOtherLengths 1 serviceSetAlert :=
  .one (fun _ => rfl) fun _ _ _ _ => rfl
theorem serviceReadQueue_refusesOtherLengths : RefusesOtherLengths 1 serviceReadQueue :=
  .one (fun _ => rfl) fun _ _ _ _ => rfl
theorem serviceDrain_refusesOtherLengths : RefusesOtherLengths 0 serviceDrain :=
  .zero fun _ _ _ => rfl
theorem serviceLinkStatus_refusesOtherLengths : RefusesOtherLengths 1 serviceLinkStatus :=
  .one (fun _ => rfl) fun _ _ _ _ => rfl

/-- R176, R201: each row's execution refuses the payload lengths that are not the row's. -/
theorem serviceOf_refusesOtherLengths :
    ∀ r ∈ serviceRows, RefusesOtherLengths r.2.2 (serviceOf r.2.1) := by
  simp only [serviceRows, List.forall_mem_cons, List.not_mem_nil, false_imp_iff, implies_true, and_true]
  exact ⟨serviceIdentify_refusesOtherLengths, serviceReadWindow_refusesOtherLengths,
    serviceWriteWindow_refusesOtherLengths, serviceReadProfile_refusesOtherLengths,
    serviceWriteProfile_refusesOtherLengths, serviceReadTrigger_refusesOtherLengths,
    serviceWriteTrigger_refusesOtherLengths, serviceReadGlobals_refusesOtherLengths,
    serviceWriteGlobals_refusesOtherLengths, serviceCopy_refusesOtherLengths, serviceApply_refusesOtherLengths,
    serviceReadBank_refusesOtherLengths, serviceSetBank_refusesOtherLengths, serviceSetBank_refusesOtherLengths,
    serviceCancel_refusesOtherLengths, serviceReadFaults_refusesOtherLengths,
    serviceRemoveFaults_refusesOtherLengths, serviceSetAlert_refusesOtherLengths,
    serviceReadQueue_refusesOtherLengths, serviceDrain_refusesOtherLengths, serviceLinkStatus_refusesOtherLengths⟩

/-! ### The rows -/

/-- R201: the opcode of SET_BANK is that of two rows. -/
theorem setBank_rows :
    ∀ r ∈ serviceRows, r.2.1 = 0x21 → r = (.setBankFollow, 0x21, 3) ∨ r = (.setBankNow, 0x21, 3) := by
  decide

/-- Every row knows the commands of its opcode whose length is wrong; both rows of SET_BANK do (log 13). -/
theorem exec_serviceRow_of_length {p : List Byte} : ∀ r ∈ serviceRows, p.length ≠ r.2.2 →
    ∃ isRow, isRow (.collected r.2.1 p) = true ∧ ∀ s, exec r.1 s = serviceRow isRow (serviceOf r.2.1) s := by
  intro r hr hlen
  by_cases hop : r.2.1 = 0x21
  · obtain rfl | rfl := setBank_rows r hr hop
    · exact ⟨isFollow, (isFollow_isNow_of_length hlen).1, fun _ => rfl⟩
    · exact ⟨isNow, (isFollow_isNow_of_length hlen).2, fun _ => rfl⟩
  · exact ⟨hasOpcode r.2.1, hasOpcode_collected _ p, exec_serviceRow r hr hop⟩

/-- Settles O32: the row knows the command, and its execution refuses it. -/
theorem wrongLengthAndUnknownOpcodeAreRefused : Obligations.WrongLengthAndUnknownOpcodeAreRefused := by
  refine ⟨fun r hr s sel p h hlen => ?_, fun s sel op p h hop => ?_⟩
  · obtain ⟨isRow, hrow, hexec⟩ := exec_serviceRow_of_length r hr hlen
    rw [hexec]
    exact serviceRow_refused h hrow (serviceOf_refusesOtherLengths r hr p hlen _)
  · exact serviceRow_refused h (isUnknown_collected hop p) rfl

end Sys2Proof.Machine
end

section
/-! PROOFS. A step with a command in front. -/
namespace Sys2Proof.Machine

@[simp] theorem State.setPending_setPending (s : State) (x y : List Instr) :
    (s.setPending x).setPending y = s.setPending y := rfl

theorem step_of_cons {s : State} {c : Instr} {rest : List Instr} (h : s.pending = c :: rest) :
    step s = exec c (s.setPending rest) := by
  rw [step, h]

/-- Settles O1: the step takes the command in front, and what its execution finds in the queue is the rest. -/
theorem stepRunsFrontCommand : Obligations.StepRunsFrontCommand := by
  intro c rest s
  have hfront : (s.setPending (c :: rest)).pending = c :: rest := State.setPending_pending s (c :: rest)
  rw [step_of_cons hfront, State.setPending_setPending]

end Sys2Proof.Machine
end
